-- ==== Sys2Proof/Word.lean ====
section
/-! DEFINITION. The word types of the CRC-32 engine (spec/00_scope.md R9: u8, u32, u64). -/

namespace Sys2Proof

/-- A `u8`: one byte of input memory, or the byte operand of BYTE. -/
abbrev Byte := BitVec 8

/-- A `u32`: a register, a response word, an address, a length, a table entry. -/
abbrev Word32 := BitVec 32

/-- A `u64`: a command word (R47). -/
abbrev Word64 := BitVec 64

end Sys2Proof
end

