-- ==== Sys2Proof/Syntax.lean ====
section
/-! DEFINITION. The commands (spec/30_encoding.md R54, one constructor per row of spec/opcode_table.json) and the
fields of a command word (R47). -/

namespace Sys2Proof

/-- A command with its operand as R53 assembles it: no sign extension, scaling or register operand. Every
term is a legal command, since every operand value is (R77, R78, R84, R85). -/
inductive Instr where
  /-- CRC.INIT: start a new checksum (R76). -/
  | init
  /-- CRC.LOAD: set the checksum to `value` (R77). -/
  | load (value : Word32)
  /-- CRC.BYTE: update the checksum with one byte (R84). -/
  | byte (b : Byte)
  /-- CRC.SETPTR: set the input pointer (R78). -/
  | setptr (address : Word32)
  /-- CRC.RANGE: update the checksum with `length` bytes of input memory (R85). -/
  | range (length : Word32)
  /-- CRC.RDCRC: read the checksum (R79). -/
  | rdcrc
  /-- CRC.RDPTR: read the input pointer (R80). -/
  | rdptr
  /-- CRC.RDSTAT: read the fault status (R81). -/
  | rdstat
deriving DecidableEq, Repr

/-- The four fields of a command word (R47), before any check. -/
structure Fields where
  /-- OP, bits 7:0. -/
  op : BitVec 8
  /-- B8, bits 15:8. -/
  b8 : BitVec 8
  /-- RSV, bits 31:16. -/
  rsv : BitVec 16
  /-- IMM32, bits 63:32. -/
  imm32 : BitVec 32
deriving DecidableEq, Repr

/-- The three formats (R50, R51, R52). -/
inductive Format where
  /-- No operand. -/
  | n
  /-- Byte operand in B8. -/
  | b
  /-- Word operand in IMM32. -/
  | i
deriving DecidableEq, Repr

end Sys2Proof
end

