-- ==== Sys2Proof/WellFormed.lean ====
section
/-! DEFINITION. When the fields of a command word are well formed (spec/30_encoding.md R55, R56, R57). The operands
of an `Instr` need no check of their own: each has exactly its field's width. -/

namespace Sys2Proof

/-- The format an opcode has, none for an illegal opcode (R50 to R52, R57). -/
def formatOf (op : BitVec 8) : Option Format :=
  if op = 0x01#8 then some .n
  else if op = 0x02#8 then some .i
  else if op = 0x03#8 then some .b
  else if op = 0x04#8 then some .i
  else if op = 0x05#8 then some .i
  else if op = 0x06#8 then some .n
  else if op = 0x07#8 then some .n
  else if op = 0x08#8 then some .n
  else none

/-- R57: the opcode is one of the eight. -/
def Fields.opcodeLegal (f : Fields) : Bool := (formatOf f.op).isSome

/-- R55: the reserved field is zero. -/
def Fields.reservedZero (f : Fields) : Bool := f.rsv == 0#16

/-- R56: the operand fields that the opcode's format does not use are zero. -/
def Fields.unusedZero (f : Fields) : Bool :=
  match formatOf f.op with
  | some .n => f.b8 == 0#8 && f.imm32 == 0#32
  | some .b => f.imm32 == 0#32
  | some .i => f.b8 == 0#8
  | none => true

/-- A legal command word's fields: all three checks. -/
def Fields.wf (f : Fields) : Bool := f.opcodeLegal && f.reservedZero && f.unusedZero

end Sys2Proof
end

