-- ==== Sys2Proof/Decode.lean ====
section
/-! DEFINITION. Decoding a command word (spec/30_encoding.md R47, R49), total on every word and on any bytes; the
encoder (R50 to R53); the opcode map (R54); words on a byte-wide bus (spec/20_memory.md R36). -/

namespace Sys2Proof

/-! ## Fields of a word (R47) -/

/-- Read the four fields of a word. -/
def fieldsOf (w : Word64) : Fields where
  op := w.extractLsb' 0 8
  b8 := w.extractLsb' 8 8
  rsv := w.extractLsb' 16 16
  imm32 := w.extractLsb' 32 32

/-- Lay four fields out as a word, IMM32 highest. -/
def packFields (f : Fields) : Word64 := f.imm32 ++ f.rsv ++ f.b8 ++ f.op

/-! ## The decoder (R49) -/

/-- The command that the fields select; none for an illegal word (R55, R56, R57). -/
def decodeFields (f : Fields) : Option Instr :=
  if f.rsv ≠ 0#16 then none
  else if f.op = 0x01#8 then (if f.b8 = 0#8 ∧ f.imm32 = 0#32 then some .init else none)
  else if f.op = 0x02#8 then (if f.b8 = 0#8 then some (.load f.imm32) else none)
  else if f.op = 0x03#8 then (if f.imm32 = 0#32 then some (.byte f.b8) else none)
  else if f.op = 0x04#8 then (if f.b8 = 0#8 then some (.setptr f.imm32) else none)
  else if f.op = 0x05#8 then (if f.b8 = 0#8 then some (.range f.imm32) else none)
  else if f.op = 0x06#8 then (if f.b8 = 0#8 ∧ f.imm32 = 0#32 then some .rdcrc else none)
  else if f.op = 0x07#8 then (if f.b8 = 0#8 ∧ f.imm32 = 0#32 then some .rdptr else none)
  else if f.op = 0x08#8 then (if f.b8 = 0#8 ∧ f.imm32 = 0#32 then some .rdstat else none)
  else none

/-- `decode : u64 → Option Command` (R49). -/
def decode (w : Word64) : Option Instr := decodeFields (fieldsOf w)

/-! ## The encoder (R50 to R53) -/

/-- The opcode of a command (R54). -/
def opcodeOf : Instr → BitVec 8
  | .init => 0x01#8
  | .load _ => 0x02#8
  | .byte _ => 0x03#8
  | .setptr _ => 0x04#8
  | .range _ => 0x05#8
  | .rdcrc => 0x06#8
  | .rdptr => 0x07#8
  | .rdstat => 0x08#8

/-- The byte operand field of a command: BYTE's operand, else 0 (R53, R56). -/
def byteFieldOf : Instr → BitVec 8
  | .byte b => b
  | .init | .load _ | .setptr _ | .range _ | .rdcrc | .rdptr | .rdstat => 0#8

/-- The word operand field of a command: the operand of LOAD, SETPTR or RANGE, else 0 (R53, R56). -/
def wordFieldOf : Instr → BitVec 32
  | .load value => value
  | .setptr address => address
  | .range length => length
  | .init | .byte _ | .rdcrc | .rdptr | .rdstat => 0#32

/-- The fields of a command's word; the reserved field is 0 (R55). -/
def encodeFields (i : Instr) : Fields where
  op := opcodeOf i
  b8 := byteFieldOf i
  rsv := 0#16
  imm32 := wordFieldOf i

/-- The word of a command. -/
def encode (i : Instr) : Word64 := packFields (encodeFields i)

/-! ## The opcode map (R54) -/

/-- A row of the opcode map: a word `w` selects it exactly when `w & mask = pattern`. -/
structure OpcodeRow where
  opcode : BitVec 8
  pattern : Word64
  mask : Word64
deriving DecidableEq, Repr

/-- The word selects the row (R54). -/
def rowSelected (row : OpcodeRow) (w : Word64) : Bool := (w &&& row.mask) == row.pattern

/-- The eight rows of R54, as spec/opcode_table.json has them. -/
def opcodeMap : List OpcodeRow :=
  [ ⟨0x01#8, 0x0000000000000001#64, 0xFFFFFFFFFFFFFFFF#64⟩,
    ⟨0x02#8, 0x0000000000000002#64, 0x00000000FFFFFFFF#64⟩,
    ⟨0x03#8, 0x0000000000000003#64, 0xFFFFFFFFFFFF00FF#64⟩,
    ⟨0x04#8, 0x0000000000000004#64, 0x00000000FFFFFFFF#64⟩,
    ⟨0x05#8, 0x0000000000000005#64, 0x00000000FFFFFFFF#64⟩,
    ⟨0x06#8, 0x0000000000000006#64, 0xFFFFFFFFFFFFFFFF#64⟩,
    ⟨0x07#8, 0x0000000000000007#64, 0xFFFFFFFFFFFFFFFF#64⟩,
    ⟨0x08#8, 0x0000000000000008#64, 0xFFFFFFFFFFFFFFFF#64⟩ ]

/-! ## Words on a byte-wide bus (spec/20_memory.md R36) -/

/-- The bytes of a command word in bus order: byte k is `w[8k+7:8k]`. -/
def busBytes (w : Word64) : List Byte :=
  [w.extractLsb' 0 8, w.extractLsb' 8 8, w.extractLsb' 16 8, w.extractLsb' 24 8,
   w.extractLsb' 32 8, w.extractLsb' 40 8, w.extractLsb' 48 8, w.extractLsb' 56 8]

/-- The bytes of a `u32`, least significant first: a response word on the bus, a gzip trailer field. -/
def le32 (v : Word32) : List Byte :=
  [v.extractLsb' 0 8, v.extractLsb' 8 8, v.extractLsb' 16 8, v.extractLsb' 24 8]

/-- The bytes of a `u16`, least significant first. -/
def le16 (v : BitVec 16) : List Byte := [v.extractLsb' 0 8, v.extractLsb' 8 8]

/-- The first word that the bus delivers and the bytes after it; none while fewer than eight bytes have
come (the port delivers whole words, R59). -/
def busWord : List Byte → Option (Word64 × List Byte)
  | b0 :: b1 :: b2 :: b3 :: b4 :: b5 :: b6 :: b7 :: rest =>
    some (b7 ++ b6 ++ b5 ++ b4 ++ b3 ++ b2 ++ b1 ++ b0, rest)
  | _ => none

/-- Decode the first word of a byte stream: none when there is no whole word; otherwise what `decode` gives
and the rest of the stream. Total on any bytes. -/
def decodeBytes (bs : List Byte) : Option (Option Instr × List Byte) :=
  (busWord bs).map fun r => (decode r.1, r.2)

/-! ## The host's probe -/

/-- The word whose bits are `w`, numbered as spec/opcode_table.json numbers them (bit 0 least significant);
bits from `nbits` up are 0. -/
def tableWord (nbits w : Nat) : Word64 := BitVec.ofNat 64 (w % 2 ^ nbits)

/-- What the decoder reads from the bytes of that word as the bus carries them. -/
def decodeTableWord (nbits w : Nat) : Option Instr :=
  match decodeBytes (busBytes (tableWord nbits w)) with
  | some (i, _) => i
  | none => none

end Sys2Proof
end

