-- ==== Sys2Proof/Config.lean ====
section
/-! DEFINITION. What the spec leaves to the implementation (spec/00_scope.md R7, R8): only INPUT_SIZE and
N_ENGINES are open, and nothing of the CRC function is. N_ENGINES is the length of a `Platform`. -/

namespace Sys2Proof

/-- INPUT_SIZE of the machine that `State.reset` is: OPEN in R7 (0 to 2^32 - 1), so it has no body and
no proof can see its value. A state carries its own size in `State.inputSize`.
DESIGN CHOICE (log entry 3): safe, since every value is allowed. -/
opaque Config.inputSize : Word32

end Sys2Proof
end

