-- ==== Sys2Proof/Machine/State.lean ====
section
/-! DEFINITION. The machine's state as plain data (spec/10_state.md R15 to R30) with its reset value (spec/70_reset_and_hazards.md
R111, R112), the engine's faults, and the reasons a step can stop. -/

namespace Sys2Proof.Machine

/-- The two faults that a command can raise (spec/60_exceptions.md R97, R98, R99). Neither stops the machine:
each is recorded in STATUS. -/
inductive FaultCause where
  /-- ILL: the word on the command port is no command (R97). -/
  | ill
  /-- RANGE: the input range of a legal RANGE is out of bounds (R98). -/
  | range
deriving DecidableEq, Repr

/-- Why a step stops the model. -/
inductive Fault where
  /-- Raised by a HOST step that writes input memory at an address that is not below INPUT_SIZE, where
  there is no byte (spec/20_memory.md R31, R40). No command raises it. Safe: the host may not do so. -/
  | hostWriteOutsideInput
deriving DecidableEq, Repr

/-- Why a step has no meaning. -/
inductive Refusal where
  /-- Raised by no one now: every command has its meaning. Safe: a refusal proves nothing. -/
  | notModelled (mnemonic : String)
deriving DecidableEq, Repr

/-- What the host can do between two commands (spec/20_memory.md R40). -/
inductive HostStep where
  /-- Write one byte of input memory. -/
  | write (address : Word32) (b : Byte)
  /-- Present one 64-bit word on the command port (spec/30_encoding.md R46). -/
  | present (word : Word64)
  /-- Assert reset (spec/70_reset_and_hazards.md R111). -/
  | reset
deriving DecidableEq, Repr

/-- STATUS (R20): its two sticky bits. Bits 31:2 are hard-wired to 0 and have no storage (R23 allows two
Booleans); `statusWord` supplies them. -/
structure Status where
  ill : Bool
  range : Bool
deriving DecidableEq, Repr

/-- Input memory: (address, byte) pairs, addresses strictly rising, no entry equal to `unwrittenByte`
(`Memory.wf`). -/
abbrev Memory := List Host.Cell

/-- One engine instance with the host-owned state it reads (R15). -/
structure State where
  /-- The CRC register: the running checksum in API form (R16). -/
  crc : Word32
  /-- The input pointer (R19). -/
  ptr : Word32
  /-- The sticky fault bits (R20). -/
  status : Status
  /-- INPUT_SIZE: how many bytes of input memory there are (R7, R26). No step changes it. -/
  inputSize : Word32
  /-- The input memory, host-owned (R26). -/
  mem : Memory
  /-- The response that the latest transition gave, none if it gave none (R27, R48).
  DESIGN CHOICE (log entry 2). -/
  response : Option Word32
  /-- What the host does next, oldest first (R40, R41). DESIGN CHOICE (log entry 1): the model's own field,
  no queue of the engine's. -/
  host : List HostStep
deriving DecidableEq, Repr

/-- The reset state (R112) of an engine with `size` bytes of input memory that hold `mem`. -/
def State.resetWith (size : Word32) (mem : Memory) : State where
  crc := 0x00000000#32
  ptr := 0x00000000#32
  status := ⟨false, false⟩
  inputSize := size
  mem := mem
  response := none
  host := []

/-- The machine right after reset (R111, R112); INPUT_SIZE open, no byte of input memory written and no host
step pending. -/
def State.reset : State := State.resetWith Config.inputSize []

end Sys2Proof.Machine
end

