-- ==== Sys2Proof/Machine/Flags.lean ====
section
/-! DEFINITION. The STATUS register (spec/10_state.md R20 to R23): its word and the setting of a sticky bit. The engine
has no arithmetic flags (R28). -/

namespace Sys2Proof.Machine

/-- The STATUS bit of a fault: 0 for ILL, 1 for RANGE (spec/60_exceptions.md R97, R98). -/
def faultBit : FaultCause → Nat
  | .ill => 0
  | .range => 1

/-- The cause code of a fault: 1 for ILL, 2 for RANGE (R97, R98). -/
def faultCode : FaultCause → Nat
  | .ill => 1
  | .range => 2

/-- STATUS as software reads it: ILL in bit 0, RANGE in bit 1, bits 31:2 zero (R20, R23). -/
def statusWord (st : Status) : Word32 :=
  (BitVec.ofBool st.ill).setWidth 32 ||| ((BitVec.ofBool st.range).setWidth 32 <<< 1)

/-- Set the sticky bit of a fault; the other bit stays (R21, R22). -/
def setFault : FaultCause → Status → Status
  | .ill, st => ⟨true, st.range⟩
  | .range, st => ⟨st.ill, true⟩

end Sys2Proof.Machine
end

