-- ==== Sys2Proof/Machine/Ops.lean ====
section
/-! DEFINITION. The named operations over registers, input memory and the response port; raising a fault; reset; the
host's write. -/

namespace Sys2Proof.Machine

/-! ## One field at a time -/

def State.withCrc (s : State) (v : Word32) : State := { s with crc := v }

def State.withPtr (s : State) (v : Word32) : State := { s with ptr := v }

def State.withStatus (s : State) (v : Status) : State := { s with status := v }

def State.withMem (s : State) (v : Memory) : State := { s with mem := v }

def State.withResponse (s : State) (v : Option Word32) : State := { s with response := v }

def State.withHost (s : State) (v : List HostStep) : State := { s with host := v }

/-! ## Input memory (spec/20_memory.md) -/

/-- What an address below INPUT_SIZE reads as when the list has no entry for it.
DESIGN CHOICE (log entry 4): R26 gives the contents no reset value; unsafe for claims about reset memory. -/
def unwrittenByte : Byte := 0x00#8

/-- The byte that the memory holds at an address. -/
def Memory.read : Memory → Nat → Byte
  | [], _ => unwrittenByte
  | (k, v) :: rest, a => if k = a then v else Memory.read rest a

/-- Store one byte, keeping the canonical form: storing `unwrittenByte` removes the entry. -/
def Memory.write : Memory → Nat → Byte → Memory
  | [], a, b => if b = unwrittenByte then [] else [(a, b)]
  | (k, v) :: rest, a, b =>
    if a < k then (if b = unwrittenByte then (k, v) :: rest else (a, b) :: (k, v) :: rest)
    else if a = k then (if b = unwrittenByte then rest else (a, b) :: rest)
    else (k, v) :: Memory.write rest a b

/-- The canonical form: addresses strictly rising and no entry equal to `unwrittenByte`. -/
def Memory.wf : Memory → Bool
  | [] => true
  | [(_, v)] => v != unwrittenByte
  | (k, v) :: (k', v') :: rest =>
    v != unwrittenByte && decide (k < k') && Memory.wf ((k', v') :: rest)

/-- Every entry lies at an address that exists, below `size` (R31). -/
def Memory.within (size : Nat) (m : Memory) : Bool := m.all fun c => decide (c.1 < size)

/-- `MemRead(addr, 1)` (R33), which is used only at addresses below INPUT_SIZE. -/
def memRead (s : State) (a : Nat) : Byte := Memory.read s.mem a

/-- `n` bytes from address `a` upward, in ascending order (R35). -/
def readBytes (m : Memory) (a : Nat) : Nat → List Byte
  | 0 => []
  | n + 1 => Memory.read m a :: readBytes m (a + 1) n

/-! ## How a command ends (spec/30_encoding.md R48) -/

/-- The command completes and gives no response. -/
def complete (s : State) : Host.Outcome State Fault Refusal := .next (s.withResponse none)

/-- `respond(v)`: the command completes with response `v` and changes nothing else. -/
def respond (v : Word32) (s : State) : Host.Outcome State Fault Refusal := .next (s.withResponse (some v))

/-! ## Raising a fault (spec/60_exceptions.md R96) -/

/-- `raise Fault(F)`: set F's STATUS bit and end the command with no other effect and no response. There is
no trap entry and so no return from one (R102). -/
def raiseFault (f : FaultCause) (s : State) : State :=
  (s.withStatus (setFault f s.status)).withResponse none

/-- A word that decodes to no command (R97). -/
def illegalWord (s : State) : Host.Outcome State Fault Refusal := .next (raiseFault .ill s)

/-! ## What the host does (R40) -/

/-- Reset: CRC, PTR and STATUS to 0; input memory untouched (spec/70_reset_and_hazards.md R111); the
response port is empty (R112). -/
def assertReset (s : State) : State :=
  (((s.withCrc 0x00000000#32).withPtr 0x00000000#32).withStatus ⟨false, false⟩).withResponse none

/-- The host writes one byte of input memory: only at an address that exists (R40). -/
def hostWrite (address : Word32) (b : Byte) (s : State) : Host.Outcome State Fault Refusal :=
  if address.toNat < s.inputSize.toNat then complete (s.withMem (s.mem.write address.toNat b))
  else .fault .hostWriteOutsideInput

/-- No host step: the engine holds its state (spec/60_exceptions.md R110); an earlier response has been taken.
DESIGN CHOICE (log entry 7). -/
def idle (s : State) : Host.Outcome State Fault Refusal := complete s

end Sys2Proof.Machine
end

