-- ==== Sys2Proof/Machine/Operands.lean ====
section
/-! DEFINITION. The implied operands of RANGE (spec/42_update_commands.md R85, R86): the bound check, the addresses and the
bytes. The explicit operands come out of the decoder as they are (spec/30_encoding.md R53). -/

namespace Sys2Proof.Machine

/-- RANGE's bound check, in Nat, so that no wrap can pass it: `toNat(PTR) + toNat(n) ≤ INPUT_SIZE` (R85). -/
def rangeFits (n : Word32) (s : State) : Bool := decide (s.ptr.toNat + n.toNat ≤ s.inputSize.toNat)

/-- The effective address of byte `i` of a range: pointer plus index (R86).
DEDUCED (log entry 14): taken in Nat, where it is the u32 sum, which cannot wrap after the check. -/
def rangeAddress (s : State) (i : Nat) : Nat := s.ptr.toNat + i

/-- The bytes of the range, in ascending address order (R85, R86). -/
def rangeBytes (n : Word32) (s : State) : List Byte := readBytes s.mem (rangeAddress s 0) n.toNat

end Sys2Proof.Machine
end

