-- ==== Sys2Proof/Machine/Register.lean ====
section
/-! DEFINITION. The register commands INIT, LOAD and SETPTR and the read commands RDCRC, RDPTR and RDSTAT
(spec/41_register_commands.md R76 to R81). None of them raises a fault. -/

namespace Sys2Proof.Machine

/-- CRC.INIT: `CRC <- INIT_VALUE` (R76). -/
def execInit (s : State) : Host.Outcome State Fault Refusal := complete (s.withCrc initValue)

/-- CRC.LOAD: `CRC <- v` (R77). -/
def execLoad (value : Word32) (s : State) : Host.Outcome State Fault Refusal := complete (s.withCrc value)

/-- CRC.SETPTR: `PTR <- p`, not checked against INPUT_SIZE (R78). -/
def execSetptr (address : Word32) (s : State) : Host.Outcome State Fault Refusal :=
  complete (s.withPtr address)

/-- CRC.RDCRC: `respond(CRC)` (R79). -/
def execRdcrc (s : State) : Host.Outcome State Fault Refusal := respond s.crc s

/-- CRC.RDPTR: `respond(PTR)` (R80). -/
def execRdptr (s : State) : Host.Outcome State Fault Refusal := respond s.ptr s

/-- CRC.RDSTAT: `respond(STATUS)`; reading clears nothing (R81). -/
def execRdstat (s : State) : Host.Outcome State Fault Refusal := respond (statusWord s.status) s

end Sys2Proof.Machine
end

