-- ==== Sys2Proof/Machine/Update.lean ====
section
/-! DEFINITION. The update commands BYTE and RANGE (spec/42_update_commands.md R84 to R86). -/

namespace Sys2Proof.Machine

/-- CRC.BYTE: `CRC <- crc_step(CRC, b)` (R84). -/
def execByte (b : Byte) (s : State) : Host.Outcome State Fault Refusal :=
  complete (s.withCrc (crcStep s.crc b))

/-- The state after a RANGE that passed its bound check: CRC updated with the bytes, PTR moved past them (R85). -/
def rangeDone (n : Word32) (s : State) : State :=
  ((s.withCrc (crcUpdate s.crc (rangeBytes n s))).withPtr (s.ptr + n)).withResponse none

/-- CRC.RANGE: the bound check comes before any read; it fails into Fault(RANGE) (R85). -/
def execRange (n : Word32) (s : State) : Host.Outcome State Fault Refusal :=
  .next (if rangeFits n s then rangeDone n s else raiseFault .range s)

end Sys2Proof.Machine
end

