-- ==== Sys2Proof/Machine/Dispatch.lean ====
section
/-! DEFINITION. One arm per command, each a direct call of its meaning. -/

namespace Sys2Proof.Machine

def exec (i : Instr) (s : State) : Host.Outcome State Fault Refusal :=
  match i with
  | .init => Sys2Proof.Machine.execInit s
  | .load value => Sys2Proof.Machine.execLoad value s
  | .byte b => Sys2Proof.Machine.execByte b s
  | .setptr address => Sys2Proof.Machine.execSetptr address s
  | .range length => Sys2Proof.Machine.execRange length s
  | .rdcrc => Sys2Proof.Machine.execRdcrc s
  | .rdptr => Sys2Proof.Machine.execRdptr s
  | .rdstat => Sys2Proof.Machine.execRdstat s

end Sys2Proof.Machine
end

