-- ==== Sys2Proof/Machine/Step.lean ====
section
/-! DEFINITION. One transition of the engine and its host (spec/20_memory.md R41): the host's next move, to completion. -/

namespace Sys2Proof.Machine

/-- The host's next move: a byte of input memory (R40), reset (spec/70_reset_and_hazards.md R111), or a word on the command
port, decoded first and then executed to completion (spec/30_encoding.md R46, R49; spec/60_exceptions.md R101). -/
def step (s : State) : Host.Outcome State Fault Refusal :=
  match s.host with
  | [] => idle s
  | .write address b :: rest => hostWrite address b (s.withHost rest)
  | .reset :: rest => .next (assertReset (s.withHost rest))
  | .present w :: rest =>
    match decode w with
    | some i => exec i (s.withHost rest)
    | none => illegalWord (s.withHost rest)

/-- The host presents the word whose bits are `w` (numbered as spec/opcode_table.json numbers them) before anything
else it was about to do, so that the next step decodes and runs it (log entry 1). -/
def State.withFetchWord (s : State) (nbits w : Nat) : State :=
  s.withHost (.present (tableWord nbits w) :: s.host)

end Sys2Proof.Machine
end

