-- ==== Sys2Proof/Machine/Sequence.lean ====
section
/-! DEFINITION. Commands one after another, the pseudo-commands (spec/30_encoding.md R61, R62), and commands as the host
presents them. -/

namespace Sys2Proof.Machine

/-- Go on from a next state; a stop stays a stop. -/
def andThen {α β : Type} (o : Host.Outcome α Fault Refusal) (k : α → Host.Outcome β Fault Refusal) :
    Host.Outcome β Fault Refusal :=
  match o with
  | .next s => k s
  | .fault r => .fault r
  | .refused r => .refused r

/-- The commands in order, each to completion before the next (spec/30_encoding.md R46, spec/70_reset_and_hazards.md R117). -/
def execAll : List Instr → State → Host.Outcome State Fault Refusal
  | [], s => .next s
  | i :: rest, s => andThen (exec i s) (execAll rest)

/-- `crc.bytes B0, B1, ...`: one BYTE command a byte, in order (R61). -/
def bytesCommands (bytes : List Byte) : List Instr := bytes.map Instr.byte

/-- `crc.region P, N`: SETPTR and then RANGE (R62). -/
def regionCommands (p n : Word32) : List Instr := [.setptr p, .range n]

/-- The host's moves that present the commands, in order (R46). -/
def presented (commands : List Instr) : List HostStep := commands.map fun i => .present (encode i)

end Sys2Proof.Machine
end

