-- ==== Sys2Proof/Machine/Assembler.lean ====
section
/-! DEFINITION. The assembler (spec/30_encoding.md R60 to R62): the text of a line, and the words it stands for. -/

namespace Sys2Proof.Machine

/-- One line of a listing, with its operands as the numbers written. -/
inductive AsmLine where
  /-- Nothing but blanks and a comment. -/
  | blank
  | init
  | load (v : Nat)
  | byte (b : Nat)
  | setptr (p : Nat)
  | range (n : Nat)
  | rdcrc
  | rdptr
  | rdstat
  /-- `crc.bytes`, one operand or more (R61). -/
  | bytes (first : Nat) (rest : List Nat)
  /-- `crc.region` (R62). -/
  | region (p n : Nat)
  /-- `.word64`: a word as it is. R60 gives it for words with no legal spelling and is silent on others.
  DESIGN CHOICE (log entry 19): it may spell any u64, a legal command word too. -/
  | word64 (w : Nat)
deriving DecidableEq, Repr

/-! ## Words (R60's table) -/

/-- An operand that fits its field; one that does not is an assembly error, never truncated (R60). -/
def fitted (bits v : Nat) : Option (BitVec bits) := if v < 2 ^ bits then some (BitVec.ofNat bits v) else none

/-- `(V << 32) | op`. -/
def operandWord (v : Word32) (op : Word64) : Word64 := (v.setWidth 64 <<< 32) ||| op

/-- `(B << 8) | 0x03`. -/
def byteWord (b : Byte) : Word64 := (b.setWidth 64 <<< 8) ||| 0x03#64

/-- BYTE words of all the operands; an error if one does not fit. -/
def byteWords : List Nat → Option (List Word64)
  | [] => some []
  | b :: rest => do
    let v ← fitted 8 b
    let ws ← byteWords rest
    some (byteWord v :: ws)

/-- The command words that a line stands for; none for an operand that does not fit.
DESIGN CHOICE (log entry 19): `.word64` takes any u64, whether or not a command spells it. -/
def assemble : AsmLine → Option (List Word64)
  | .blank => some []
  | .init => some [0x01#64]
  | .load v => (fitted 32 v).map fun x => [operandWord x 0x02#64]
  | .byte b => (fitted 8 b).map fun x => [byteWord x]
  | .setptr p => (fitted 32 p).map fun x => [operandWord x 0x04#64]
  | .range n => (fitted 32 n).map fun x => [operandWord x 0x05#64]
  | .rdcrc => some [0x06#64]
  | .rdptr => some [0x07#64]
  | .rdstat => some [0x08#64]
  | .bytes first rest => byteWords (first :: rest)
  | .region p n => do
    let x ← fitted 32 p
    let y ← fitted 32 n
    some [operandWord x 0x04#64, operandWord y 0x05#64]
  | .word64 w => (fitted 64 w).map fun x => [x]

/-! ## Text (R60). DESIGN CHOICE (log entry 16): blanks are spaces and tabs; a hexadecimal digit may be of
either case. -/

def isBlank (c : Char) : Bool := c == ' ' || c == '\t'

/-- `;` starts a comment. -/
def dropComment (text : List Char) : List Char := text.takeWhile (· != ';')

/-- Without blanks at either end. -/
def trimmed (text : List Char) : List Char :=
  ((text.dropWhile isBlank).reverse.dropWhile isBlank).reverse

/-- The pieces between commas. -/
def splitCommas : List Char → List (List Char)
  | [] => [[]]
  | c :: rest =>
    if c = ',' then [] :: splitCommas rest
    else
      match splitCommas rest with
      | [] => [[c]]
      | piece :: more => (c :: piece) :: more

/-- The value of a digit in a base. -/
def digitValue (base : Nat) (c : Char) : Option Nat :=
  let v := if '0' ≤ c ∧ c ≤ '9' then c.toNat - '0'.toNat
    else if 'a' ≤ c ∧ c ≤ 'f' then c.toNat - 'a'.toNat + 10
    else if 'A' ≤ c ∧ c ≤ 'F' then c.toNat - 'A'.toNat + 10
    else base
  if v < base then some v else none

/-- The value of a row of digits, most significant first. -/
def digitsValue (base : Nat) : List Char → Nat → Option Nat
  | [], acc => some acc
  | c :: rest, acc =>
    match digitValue base c with
    | some v => digitsValue base rest (acc * base + v)
    | none => none

/-- A decimal or `0x` hexadecimal unsigned integer. -/
def number : List Char → Option Nat
  | [] => none
  | '0' :: 'x' :: c :: rest => digitsValue 16 (c :: rest) 0
  | c :: rest => digitsValue 10 (c :: rest) 0

/-- All the operands; none if a piece is no number. -/
def numbers : List (List Char) → Option (List Nat)
  | [] => some []
  | piece :: rest => do
    let v ← number (trimmed piece)
    let vs ← numbers rest
    some (v :: vs)

/-- The operands after a mnemonic. -/
def operandsOf (text : List Char) : Option (List Nat) :=
  if trimmed text = [] then some [] else numbers (splitCommas text)

/-- The line that a mnemonic and its operands are; none for any other. -/
def lineOf (mnemonic : List Char) (operands : List Nat) : Option AsmLine :=
  if mnemonic = ['.', 'w', 'o', 'r', 'd', '6', '4'] then
    match operands with
    | [w] => some (.word64 w)
    | _ => none
  else if mnemonic.take 4 = ['c', 'r', 'c', '.'] then
    match mnemonic.drop 4, operands with
    | ['i', 'n', 'i', 't'], [] => some .init
    | ['l', 'o', 'a', 'd'], [v] => some (.load v)
    | ['b', 'y', 't', 'e'], [b] => some (.byte b)
    | ['s', 'e', 't', 'p', 't', 'r'], [p] => some (.setptr p)
    | ['r', 'a', 'n', 'g', 'e'], [n] => some (.range n)
    | ['r', 'd', 'c', 'r', 'c'], [] => some .rdcrc
    | ['r', 'd', 'p', 't', 'r'], [] => some .rdptr
    | ['r', 'd', 's', 't', 'a', 't'], [] => some .rdstat
    | ['b', 'y', 't', 'e', 's'], b :: bs => some (.bytes b bs)
    | ['r', 'e', 'g', 'i', 'o', 'n'], [p, n] => some (.region p n)
    | _, _ => none
  else none

/-- Read one line: comment off, mnemonic up to the first blank, operands between commas. -/
def parseLine (text : List Char) : Option AsmLine :=
  let body := trimmed (dropComment text)
  if body = [] then some .blank
  else
    match operandsOf (body.dropWhile fun c => !isBlank c) with
    | some operands => lineOf (body.takeWhile fun c => !isBlank c) operands
    | none => none

/-- The words of a listing's line, none for an assembly error (R60). -/
def assembleText (text : List Char) : Option (List Word64) :=
  match parseLine text with
  | some line => assemble line
  | none => none

end Sys2Proof.Machine
end

