-- ==== Sys2Proof/Machine/Clients.lean ====
section
/-! DEFINITION. How the gzip wrapper and the session use the engine (spec/45_clients.md R88 to R95): which value they
carry, over which bytes, in which byte order, and what a mismatch does. The header and trailer state machines themselves
are outside this hardware (spec/00_scope.md R6). -/

namespace Sys2Proof.Machine

/-! ## Values and byte orders -/

/-- The gzip trailer: CRC and then the uncompressed length mod 2^32, both least significant byte first (R89). -/
def gzipTrailer (crc : Word32) (length : Nat) : List Byte := le32 crc ++ le32 (BitVec.ofNat 32 length)

/-- The trailer CRC of a member's whole uncompressed data (R90).
PRESUMED (log entry 17): which bytes it covers is from general knowledge of RFC 1952. -/
def trailerCrc (data : List Byte) : Word32 := crcUpdate initValue data

/-- The header CRC: the low 16 bits of the CRC of every header byte before it (R91).
PRESUMED (log entry 17). -/
def headerCrc (header : List Byte) : BitVec 16 := (crcUpdate initValue header).setWidth 16

/-- The header CRC field: present exactly when FHCRC is set, least significant byte first (R91).
PRESUMED (log entry 17). -/
def headerCrcField (fhcrc : Bool) (header : List Byte) : List Byte :=
  if fhcrc then le16 (headerCrc header) else []

/-! ## The client's comparisons (R93); the engine reports nothing itself -/

/-- What a client reports. -/
inductive ClientStatus where
  | ok
  /-- A checksum or length does not match (R93). -/
  | dataError
  /-- The engine recorded a fault: a misuse of the command interface (92_eei_decisions.md D27). -/
  | streamError
  /-- No CRC-32 check applies: the session's wrap does not use the engine (R88).
  DESIGN CHOICE (log entry 22): the name of this answer. -/
  | noCrcCheck
deriving DecidableEq, Repr

/-- The CHECK-VALUE stage: the trailer's CRC field against the running CRC (R93). -/
def crcFieldMatches (crc : Word32) (trailer : List Byte) : Bool := trailer.take 4 == le32 crc

/-- The LENGTH-TRAILER stage: the trailer's length field against the uncompressed length (R93). -/
def lengthFieldMatches (length : Nat) (trailer : List Byte) : Bool :=
  trailer.drop 4 == le32 (BitVec.ofNat 32 length)

/-- Both comparisons of a gzip trailer (R93).
DESIGN CHOICE (log entry 21): a trailer of any other size than eight bytes is a mismatch. -/
def trailerStatus (crc : Word32) (length : Nat) (trailer : List Byte) : ClientStatus :=
  if crcFieldMatches crc trailer && lengthFieldMatches length trailer then .ok else .dataError

/-- The header CRC comparison, treated as the trailer's (R93, 92_eei_decisions.md D29).
DESIGN CHOICE (log entries 20, 21): the value is computed apart from the session's engine, and a field of another size
is a mismatch. -/
def headerStatus (fhcrc : Bool) (header field : List Byte) : ClientStatus :=
  if field == headerCrcField fhcrc header then .ok else .dataError

/-- What a library that drives the engine reports of its STATUS (D27). -/
def engineStatus (e : State) : ClientStatus :=
  if statusWord e.status = 0#32 then .ok else .streamError

/-! ## A session (R88, R92, R93, R94) -/

/-- The container format around the DEFLATE stream (R88). -/
inductive Wrap where
  | raw
  | zlib
  | gzip
deriving DecidableEq, Repr

/-- R88: only the gzip wrap uses the CRC-32 engine. -/
def usesEngine : Wrap → Bool
  | .gzip => true
  | .raw | .zlib => false

/-- A session with the engine instance it owns. -/
structure Session where
  wrap : Wrap
  /-- The session's own engine; its CRC register is the running checksum (R88). -/
  engine : State
  /-- Bytes of uncompressed data seen so far. -/
  length : Nat
  /-- The terminal BAD state after a mismatch (R93). -/
  bad : Bool
deriving DecidableEq, Repr

/-- A new session: its engine in the reset state (spec/70_reset_and_hazards.md R111). -/
def sessionStart (wrap : Wrap) (size : Word32) : Session := ⟨wrap, State.resetWith size [], 0, false⟩

/-- One call's bytes, in order, each exactly once (R94). A BAD session takes nothing.
DESIGN CHOICE (log entry 18). -/
def sessionFeed (bytes : List Byte) (ss : Session) : Host.Outcome Session Fault Refusal :=
  if ss.bad then .next ss
  else if usesEngine ss.wrap then
    andThen (execAll (bytesCommands bytes) ss.engine) fun e =>
      .next { ss with engine := e, length := ss.length + bytes.length }
  else .next { ss with length := ss.length + bytes.length }

/-- Several calls, one chunk each, in order (R94). -/
def sessionFeedAll : List (List Byte) → Session → Host.Outcome Session Fault Refusal
  | [], ss => .next ss
  | chunk :: rest, ss => andThen (sessionFeed chunk ss) (sessionFeedAll rest)

/-- The trailer written on finish, with the value RDCRC answers (R92). Raw has none; zlib's is the Adler-32
engine's, outside this hardware (R88).
DESIGN CHOICE (log entry 23): a BAD session still has its trailer; R93 does not say what finish does then. -/
def sessionTrailer (ss : Session) : Option (List Byte) :=
  match ss.wrap with
  | .gzip => some (gzipTrailer ss.engine.crc ss.length)
  | .raw => some []
  | .zlib => none

/-- What a comparison's outcome does to a session. BAD is terminal (R93); a session without the gzip wrap has no
CRC-32 check, which leaves it as it is (R88, log entry 22); otherwise anything but a match makes it BAD (R93). -/
def sessionVerdict (compared : ClientStatus) (ss : Session) : ClientStatus × Session :=
  if ss.bad then (.dataError, ss)
  else if usesEngine ss.wrap then
    (if compared = .ok then (.ok, ss) else (compared, { ss with bad := true }))
  else (.noCrcCheck, ss)

/-- The decompressor's check of a gzip trailer: a mismatch makes the session BAD, and BAD stays (R93).
A session without the gzip wrap does not use the engine, so nothing is compared (R88).
DESIGN CHOICE (log entries 18, 21): a BAD session answers DATA-ERROR, and a trailer of another size is a mismatch. -/
def sessionCheck (trailer : List Byte) (ss : Session) : ClientStatus × Session :=
  sessionVerdict (trailerStatus ss.engine.crc ss.length trailer) ss

/-- The check of a gzip header's CRC: a mismatch is treated the same way (R93, D29); only a gzip session has one (R88).
DESIGN CHOICE (log entries 18, 20, 21): as for `sessionCheck`; and the header CRC is computed by the pure function,
so that the session's engine is left as it is. -/
def sessionHeaderCheck (fhcrc : Bool) (header field : List Byte) (ss : Session) : ClientStatus × Session :=
  sessionVerdict (headerStatus fhcrc header field) ss

/-- The explicit reset that a BAD session needs before it is used again (R93): its engine is reset (R111), no data has
been seen, and it is not BAD.
DESIGN CHOICE (log entry 24): it keeps its wrap kind, and its engine is reset whatever the wrap. -/
def sessionReset (ss : Session) : Session := ⟨ss.wrap, assertReset ss.engine, 0, false⟩

end Sys2Proof.Machine
end

