-- ==== Sys2Proof/Machine/Platform.lean ====
section
/-! DEFINITION. Several engine instances (spec/10_state.md R30, spec/60_exceptions.md R105, R106): independent machines that
share only the constant table ROM. -/

namespace Sys2Proof.Machine

/-- The instances of a platform, one or more (R7: N_ENGINES is an integer ≥ 1). -/
structure Platform where
  engines : List State
  /-- There is at least one instance (R7). -/
  nonempty : engines ≠ []
deriving DecidableEq, Repr

/-- N_ENGINES of a platform (R7): OPEN, at least 1 by `Platform.nonempty`. -/
def Platform.nEngines (p : Platform) : Nat := p.engines.length

/-- A platform whose instances are in their reset state, a first one and any others, each with its own size of
input memory (R105). -/
def Platform.resetWith (first : Word32) (others : List Word32) : Platform :=
  ⟨(first :: others).map fun z => State.resetWith z [], by simp⟩

/-- The platform with instance `k` in another state; there are as many instances as before. -/
def Platform.withEngine (p : Platform) (k : Nat) (t : State) : Platform :=
  ⟨p.engines.set k t, by simpa using p.nonempty⟩

/-- One transition of instance `k`; none where there is no such instance. -/
def Platform.step (k : Nat) (p : Platform) : Option (Host.Outcome Platform Fault Refusal) :=
  match p.engines[k]? with
  | none => none
  | some s =>
    match Sys2Proof.Machine.step s with
    | .next t => some (.next (p.withEngine k t))
    | .fault r => some (.fault r)
    | .refused r => some (.refused r)

end Sys2Proof.Machine
end

