-- ==== Sys2Proof/Safety.lean ====
section
/-! DEFINITION. What counts as a well-formed state, a host that keeps its duty, and a run without faults. -/

namespace Sys2Proof.Machine

/-- The input memory is in its canonical form and lists only addresses that exist (spec/20_memory.md R31). -/
def State.wf (s : State) : Bool := s.mem.wf && s.mem.within s.inputSize.toNat

/-- The host step is one that the host table allows (spec/20_memory.md R40): a write lies below INPUT_SIZE. -/
def HostStep.allowed (size : Nat) : HostStep → Bool
  | .write address _ => decide (address.toNat < size)
  | .present _ => true
  | .reset => true

/-- Everything the host is about to do is allowed. -/
def State.hostAllowed (s : State) : Bool := s.host.all (HostStep.allowed s.inputSize.toNat)

/-- No fault has been recorded since reset: STATUS = 0 (92_eei_decisions.md D11). -/
def State.faultFree (s : State) : Bool := s.status == ⟨false, false⟩

end Sys2Proof.Machine
end

