-- ==== Sys2Proof/Certificates/Slice0/Obligations.lean ====
section
/-! DEFINITION. The statements for the provers. Each docstring names the rule of spec/ it formalises. -/

open Sys2Proof Sys2Proof.Machine

/-! ## Command words -/

/-- R49, R50 to R53: a word decodes to a command exactly when it is that command's encoding; so decoding an
encoded command gives it back, with every operand, and each command has one word. -/
def Obligations.DecodeIsInverseOfEncode : Prop :=
  ∀ (w : Word64) (i : Instr), decode w = some i ↔ w = encode i

/-- R97 with R55, R56, R57: the words that are no command, for one of three reasons, and what presenting one
does; no legal command raises ILL. -/
def Obligations.IllegalWordsRaiseIll : Prop :=
  (∀ w : Word64,
    decode w = none ↔
      (w.extractLsb' 0 8 = 0x00#8 ∨ 0x09 ≤ (w.extractLsb' 0 8).toNat) ∨
      w.extractLsb' 16 16 ≠ 0#16 ∨
      (w.extractLsb' 0 8 ∈ [0x01#8, 0x06#8, 0x07#8, 0x08#8] ∧
        (w.extractLsb' 8 8 ≠ 0#8 ∨ w.extractLsb' 32 32 ≠ 0#32)) ∨
      (w.extractLsb' 0 8 = 0x03#8 ∧ w.extractLsb' 32 32 ≠ 0#32) ∨
      (w.extractLsb' 0 8 ∈ [0x02#8, 0x04#8, 0x05#8] ∧ w.extractLsb' 8 8 ≠ 0#8)) ∧
  (∀ (s : State) (w : Word64) (rest : List HostStep), decode w = none →
    step { s with host := .present w :: rest } =
      .next { s with host := rest, status := ⟨true, s.status.range⟩, response := none }) ∧
  (∀ (i : Instr) (s : State), ∃ t, exec i s = .next t ∧ t.status.ill = s.status.ill) ∧
  faultCode .ill = 1 ∧ faultBit .ill = 0 ∧
  decode 0x0000000000000000#64 = none ∧ decode 0x0000000100000001#64 = none

/-- R54: a word selects a row of the opcode map exactly when it decodes to that row's command; a word that
selects no row is illegal; the rows are pairwise disjoint. -/
def Obligations.OpcodeMapSelectsTheCommand : Prop :=
  (∀ row ∈ opcodeMap, ∀ w : Word64,
    rowSelected row w = true ↔ ∃ i, decode w = some i ∧ opcodeOf i = row.opcode) ∧
  (∀ w : Word64, decode w = none ↔ ∀ row ∈ opcodeMap, rowSelected row w = false) ∧
  (∀ row ∈ opcodeMap, ∀ row' ∈ opcodeMap, ∀ w : Word64,
    rowSelected row w = true → rowSelected row' w = true → row = row')

/-- 95_test_vectors.md V-D1: words written out from the encodings of R50 to R52. -/
def Obligations.WrittenOutWordsDecode : Prop :=
  decode 0x0000000000000001#64 = some .init ∧
  decode 0x1234567800000002#64 = some (.load 0x12345678#32) ∧
  decode 0x0000000000006103#64 = some (.byte 0x61#8) ∧
  decode 0xFFFFFFFF00000004#64 = some (.setptr 0xFFFFFFFF#32) ∧
  decode 0xFFFFFFFF00000005#64 = some (.range 0xFFFFFFFF#32) ∧
  decode 0x0000000000000006#64 = some .rdcrc ∧
  decode 0x0000000000000007#64 = some .rdptr ∧
  decode 0x0000000000000008#64 = some .rdstat ∧
  decode 0xFFFFFFFFFFFF6103#64 = none ∧ decode 0x1234567800000102#64 = none

/-- R36: on a byte-wide bus a command word and a response word go least significant byte first, and the
decoder reads from a command word's bytes what it reads from the word, and leaves the rest. -/
def Obligations.BusOrderIsLittleEndian : Prop :=
  (∀ (w : Word64) (k : Nat), k < 8 → (busBytes w)[k]? = some (w.extractLsb' (8 * k) 8)) ∧
  (∀ (v : Word32) (k : Nat), k < 4 → (le32 v)[k]? = some (v.extractLsb' (8 * k) 8)) ∧
  (∀ (w : Word64) (rest : List Byte), decodeBytes (busBytes w ++ rest) = some (decode w, rest))

/-- R60: the words of the assembler's lines; an operand that does not fit its field is an error, never
truncated. -/
def Obligations.AssemblerWords : Prop :=
  assemble .init = some [encode .init] ∧
  assemble .rdcrc = some [encode .rdcrc] ∧
  assemble .rdptr = some [encode .rdptr] ∧
  assemble .rdstat = some [encode .rdstat] ∧
  ∀ v : Nat,
    assemble (.load v) = (if v < 2 ^ 32 then some [encode (.load (BitVec.ofNat 32 v))] else none) ∧
    assemble (.setptr v) = (if v < 2 ^ 32 then some [encode (.setptr (BitVec.ofNat 32 v))] else none) ∧
    assemble (.range v) = (if v < 2 ^ 32 then some [encode (.range (BitVec.ofNat 32 v))] else none) ∧
    assemble (.byte v) = (if v < 2 ^ 8 then some [encode (.byte (BitVec.ofNat 8 v))] else none)

/-! ## The CRC-32 function -/

/-- R64: entry i of the table ROM is crc_table(i), eight reflected shift steps from zext(i). -/
def Obligations.TableRomHoldsCrcTable : Prop :=
  ∀ i : Byte,
    romEntry i =
      (fun c : Word32 => if c.getLsbD 0 = true then 0xEDB88320#32 ^^^ (c >>> 1) else c >>> 1)^[8]
        (i.setWidth 32)

/-- R67: the byte steps in order on the raw form, between two inversions. -/
def Obligations.UpdateIsTheTableLoop : Prop :=
  (∀ r : Word32, crcRaw r [] = r) ∧
  (∀ (r : Word32) (b : Byte) (bytes : List Byte),
    crcRaw r (b :: bytes) =
      crcRaw (romEntry (((r ^^^ b.setWidth 32) &&& 0xFF#32).setWidth 8) ^^^ (r >>> 8)) bytes) ∧
  ∀ (c : Word32) (bytes : List Byte),
    crcUpdate c bytes = crcRaw (c ^^^ 0xFFFFFFFF#32) bytes ^^^ 0xFFFFFFFF#32

/-- R68: the byte step is the update with one byte, and its written-out form. -/
def Obligations.ByteStepIsOneByteUpdate : Prop :=
  ∀ (c : Word32) (b : Byte),
    crcStep c b = crcUpdate c [b] ∧
    crcStep c b =
      romEntry ((((c ^^^ 0xFFFFFFFF#32) ^^^ b.setWidth 32) &&& 0xFF#32).setWidth 8) ^^^
        ((c ^^^ 0xFFFFFFFF#32) >>> 8) ^^^ 0xFFFFFFFF#32

/-- R69: an empty update changes nothing; the checksum of the empty sequence is 0. -/
def Obligations.EmptyUpdateIsIdentity : Prop :=
  (∀ c : Word32, crcUpdate c [] = c) ∧ crcUpdate initValue [] = 0x00000000#32

/-- R70: updates over consecutive segments chain, whatever the segment boundaries. -/
def Obligations.UpdatesChainOverSegments : Prop :=
  (∀ (c : Word32) (s t : List Byte), crcUpdate (crcUpdate c s) t = crcUpdate c (s ++ t)) ∧
  ∀ (c : Word32) (chunks : List (List Byte)), chunks.foldl crcUpdate c = crcUpdate c chunks.flatten

/-- R72: the check value of ASCII "123456789". -/
def Obligations.UpdateHasTheCheckValue : Prop :=
  crcUpdate 0x00000000#32
    [0x31#8, 0x32#8, 0x33#8, 0x34#8, 0x35#8, 0x36#8, 0x37#8, 0x38#8, 0x39#8] = 0xCBF43926#32

/-- R73: data followed by its own little-endian CRC leaves the residue. -/
def Obligations.AppendedCrcLeavesResidue : Prop :=
  ∀ s : List Byte,
    crcUpdate 0#32 (s ++ le32 (crcUpdate 0#32 s)) = 0x2144DF1C#32 ∧
    crcUpdate (crcUpdate 0#32 s) (le32 (crcUpdate 0#32 s)) = 0x2144DF1C#32

/-- R74: the table is linear over XOR; its listed entries; the listed byte steps. -/
def Obligations.TableFacts : Prop :=
  romEntry 0x00#8 = 0x00000000#32 ∧ romEntry 0x80#8 = 0xEDB88320#32 ∧ poly = 0xEDB88320#32 ∧
  romEntry 0xFF#8 = 0x2D02EF8D#32 ∧
  (∀ a b : Byte, romEntry (a ^^^ b) = romEntry a ^^^ romEntry b) ∧
  crcStep 0x00000000#32 0x00#8 = 0xD202EF8D#32 ∧
  crcStep 0x00000000#32 0xFF#8 = 0xFF000000#32 ∧
  crcStep 0xFFFFFFFF#32 0x00#8 = 0xFFFFFFFF#32

/-! ## The eight commands: word, result, completion -/

/-- R76: CRC.INIT. -/
def Obligations.InitResult : Prop :=
  decode 0x0000000000000001#64 = some .init ∧
  (∀ s : State, exec .init s = .next { s with crc := 0x00000000#32, response := none }) ∧
  ∀ s : State, s.crc = 0#32 → exec .init s = .next { s with response := none }

/-- R77: CRC.LOAD; `crc.load 0` is `crc.init`; an update after it starts from the loaded value. -/
def Obligations.LoadResult : Prop :=
  ∀ v : Word32,
    decode ((v.setWidth 64 <<< 32) ||| 0x02#64) = some (.load v) ∧
    (∀ s : State, exec (.load v) s = .next { s with crc := v, response := none }) ∧
    (∀ s : State, exec (.load 0#32) s = exec .init s) ∧
    ∀ (s : State) (b : Byte) (bytes : List Byte),
      execAll (.load v :: bytesCommands (b :: bytes)) s =
        .next { s with crc := crcUpdate v (b :: bytes), response := none }

/-- R78: CRC.SETPTR, unchecked; at or beyond INPUT_SIZE every later RANGE faults, except length 0 at
INPUT_SIZE itself. -/
def Obligations.SetptrResult : Prop :=
  ∀ p : Word32,
    decode ((p.setWidth 64 <<< 32) ||| 0x04#64) = some (.setptr p) ∧
    (∀ s : State, exec (.setptr p) s = .next { s with ptr := p, response := none }) ∧
    ∀ (s : State) (n : Word32), s.inputSize.toNat ≤ p.toNat →
      execAll [.setptr p, .range n] s =
        .next (if p = s.inputSize ∧ n = 0#32 then { s with ptr := p, response := none }
          else { s with ptr := p, status := ⟨s.status.ill, true⟩, response := none })

/-- R79: CRC.RDCRC; a second one gives the same response. -/
def Obligations.RdcrcResult : Prop :=
  decode 0x0000000000000006#64 = some .rdcrc ∧
  ∀ s : State,
    exec .rdcrc s = .next { s with response := some s.crc } ∧
    execAll [.rdcrc, .rdcrc] s = exec .rdcrc s

/-- R80: CRC.RDPTR; after a RANGE that faulted it still gives the start of that range. -/
def Obligations.RdptrResult : Prop :=
  decode 0x0000000000000007#64 = some .rdptr ∧
  (∀ s : State, exec .rdptr s = .next { s with response := some s.ptr }) ∧
  ∀ (s : State) (n : Word32), s.inputSize.toNat < s.ptr.toNat + n.toNat →
    ∃ t, execAll [.range n, .rdptr] s = .next t ∧ t.response = some s.ptr

/-- R81: CRC.RDSTAT; bits 31:2 of the response are 0; reading clears nothing. -/
def Obligations.RdstatResult : Prop :=
  decode 0x0000000000000008#64 = some .rdstat ∧
  (∀ s : State, exec .rdstat s = .next { s with response := some (statusWord s.status) }) ∧
  (∀ st : Status, (statusWord st).extractLsb' 2 30 = 0#30) ∧
  statusWord ⟨false, false⟩ = 0x00000000#32 ∧ statusWord ⟨true, false⟩ = 0x00000001#32 ∧
  statusWord ⟨false, true⟩ = 0x00000002#32 ∧ statusWord ⟨true, true⟩ = 0x00000003#32

/-- R84: CRC.BYTE, with its corner cases. -/
def Obligations.ByteResult : Prop :=
  (∀ b : Byte,
    decode ((b.setWidth 64 <<< 8) ||| 0x03#64) = some (.byte b) ∧
    ∀ s : State,
      exec (.byte b) s = .next { s with crc := crcStep s.crc b, response := none } ∧
      crcStep s.crc b = crcUpdate s.crc [b]) ∧
  crcStep 0x00000000#32 0x00#8 = 0xD202EF8D#32 ∧
  crcStep 0xFFFFFFFF#32 0x00#8 = 0xFFFFFFFF#32 ∧
  crcStep 0x00000000#32 0xFF#8 = 0xFF000000#32 ∧
  crcStep 0x00000000#32 0x61#8 = 0xE8B7BE43#32

/-- R85: CRC.RANGE in full: the Nat bound check first; a failed check sets STATUS.RANGE and changes neither CRC
nor PTR; a passed one updates CRC with the bytes at PTR, PTR + 1, ... and moves PTR, without a wrap. -/
def Obligations.RangeResult : Prop :=
  ∀ n : Word32,
    decode ((n.setWidth 64 <<< 32) ||| 0x05#64) = some (.range n) ∧
    ∀ s : State,
      exec (.range n) s =
        .next (if s.inputSize.toNat < s.ptr.toNat + n.toNat
          then { s with status := ⟨s.status.ill, true⟩, response := none }
          else { s with
            crc := crcUpdate s.crc ((List.range n.toNat).map fun i => memRead s (s.ptr.toNat + i))
            ptr := s.ptr + n
            response := none }) ∧
      (s.ptr.toNat + n.toNat ≤ s.inputSize.toNat → (s.ptr + n).toNat = s.ptr.toNat + n.toNat)

/-- R86: where RANGE executes normally: byte i comes from PTR + i, below INPUT_SIZE and with no wrap, in
ascending order, and PTR ends past the bytes read, not beyond INPUT_SIZE. -/
def Obligations.RangeCompletesInBounds : Prop :=
  ∀ (n : Word32) (s : State), s.ptr.toNat + n.toNat ≤ s.inputSize.toNat →
    ∃ t, exec (.range n) s = .next t ∧
      (∃ bytes : List Byte, bytes.length = n.toNat ∧ t.crc = crcUpdate s.crc bytes ∧
        ∀ i : Nat, i < n.toNat →
          bytes[i]? = some (memRead s (s.ptr + BitVec.ofNat 32 i).toNat) ∧
          (s.ptr + BitVec.ofNat 32 i).toNat = s.ptr.toNat + i ∧
          s.ptr.toNat + i < s.inputSize.toNat) ∧
      t.ptr.toNat = s.ptr.toNat + n.toNat ∧ t.ptr.toNat ≤ t.inputSize.toNat ∧ t.status = s.status

/-- R98: Fault RANGE, by CRC.RANGE only, exactly when the bound check fails; only the STATUS bit is recorded. -/
def Obligations.RangeFaultOnlyOutOfBounds : Prop :=
  (∀ (n : Word32) (s : State), s.inputSize.toNat < s.ptr.toNat + n.toNat →
    exec (.range n) s = .next { s with status := ⟨s.status.ill, true⟩, response := none }) ∧
  (∀ (i : Instr) (s : State), ∃ t, exec i s = .next t ∧
    (t.status.range = true ↔ s.status.range = true ∨
      ∃ n, i = .range n ∧ s.inputSize.toNat < s.ptr.toNat + n.toNat)) ∧
  faultCode .range = 2 ∧ faultBit .range = 1

/-- R33, R85: RANGE depends on no byte outside its range, and on no byte at all when it faults: with any other
memory that agrees there, it does the same. -/
def Obligations.RangeReadsOnlyItsRange : Prop :=
  ∀ (n : Word32) (s : State) (m : Memory),
    (s.ptr.toNat + n.toNat ≤ s.inputSize.toNat →
      ∀ a : Nat, s.ptr.toNat ≤ a → a < s.ptr.toNat + n.toNat → m.read a = s.mem.read a) →
    ∃ t, exec (.range n) s = .next t ∧ exec (.range n) { s with mem := m } = .next { t with mem := m }

/-! ## Sequences of commands -/

/-- R87: k BYTE commands, one RANGE over the same bytes, and any split of that RANGE into consecutive RANGEs
end with the same CRC; the split also with the same PTR. -/
def Obligations.BytesRangesAndSplitsAgree : Prop :=
  (∀ (s : State) (n : Word32) (bytes : List Byte),
    s.ptr.toNat + n.toNat ≤ s.inputSize.toNat →
    bytes = (List.range n.toNat).map (fun i => memRead s (s.ptr.toNat + i)) →
    ∃ t u, execAll (bytesCommands bytes) s = .next t ∧ exec (.range n) s = .next u ∧
      t.crc = crcUpdate s.crc bytes ∧ u.crc = crcUpdate s.crc bytes) ∧
  ∀ (s : State) (n : Word32) (lengths : List Word32),
    n.toNat = (lengths.map BitVec.toNat).sum →
    s.ptr.toNat + n.toNat ≤ s.inputSize.toNat →
    ∃ t u, execAll (lengths.map Instr.range) s = .next t ∧ exec (.range n) s = .next u ∧
      t.crc = u.crc ∧ t.ptr = u.ptr ∧ t.status = u.status

/-- R61: `crc.bytes B0, ..., Bk` stands for k + 1 BYTE commands in order, which update CRC with the sequence. -/
def Obligations.BytesPseudoCommand : Prop :=
  ∀ (b : Byte) (bytes : List Byte),
    assemble (.bytes b.toNat (bytes.map BitVec.toNat)) =
      some ((b :: bytes).map fun x => encode (.byte x)) ∧
    ∀ s : State,
      execAll (bytesCommands (b :: bytes)) s =
        .next { s with crc := crcUpdate s.crc (b :: bytes), response := none }

/-- R62: `crc.region P, N` stands for SETPTR P and RANGE N; it updates CRC with bytes P to P + N - 1, or raises
Fault(RANGE). -/
def Obligations.RegionPseudoCommand : Prop :=
  ∀ p n : Word32,
    assemble (.region p.toNat n.toNat) = some [encode (.setptr p), encode (.range n)] ∧
    ∀ s : State,
      execAll (regionCommands p n) s =
        .next (if p.toNat + n.toNat ≤ s.inputSize.toNat
          then { s with
            crc := crcUpdate s.crc ((List.range n.toNat).map fun i => memRead s (p.toNat + i))
            ptr := p + n
            response := none }
          else { s with ptr := p, status := ⟨s.status.ill, true⟩, response := none })

/-! ## Frames -/

/-- R16, R19, R20, R26: every command completes, and changes only what is named: CRC by INIT, LOAD, BYTE and a
RANGE within bounds; PTR by SETPTR and a RANGE within bounds; STATUS by a RANGE out of bounds; no byte of
memory, not INPUT_SIZE, not what the host does next. -/
def Obligations.FrameOfEveryCommand : Prop :=
  ∀ (i : Instr) (s : State), ∃ t, exec i s = .next t ∧
    (∀ a : Nat, memRead t a = memRead s a) ∧ t.mem = s.mem ∧
    t.inputSize = s.inputSize ∧ t.host = s.host ∧
    (i ≠ .init → (∀ v, i ≠ .load v) → (∀ b, i ≠ .byte b) →
      (∀ n, i = .range n → s.inputSize.toNat < s.ptr.toNat + n.toNat) → t.crc = s.crc) ∧
    ((∀ p, i ≠ .setptr p) →
      (∀ n, i = .range n → s.inputSize.toNat < s.ptr.toNat + n.toNat) → t.ptr = s.ptr) ∧
    ((∀ n, i = .range n → s.ptr.toNat + n.toNat ≤ s.inputSize.toNat) → t.status = s.status) ∧
    (i ≠ .rdcrc → i ≠ .rdptr → i ≠ .rdstat → t.response = none)

/-- R26, R38: no transition but a host write changes the input memory, and none changes INPUT_SIZE
(93_implementation_defined.md U12). -/
def Obligations.OnlyTheHostWritesMemory : Prop :=
  ∀ s t : State, step s = .next t →
    t.inputSize = s.inputSize ∧
    ((∀ a b, s.host.head? ≠ some (.write a b)) → t.mem = s.mem ∧ ∀ a : Nat, memRead t a = memRead s a)

/-! ## Faults -/

/-- R96: raising a fault sets its STATUS bit and nothing else, and gives no response; after it the engine executes
every command as if the fault had not been, but for what RDSTAT reads. -/
def Obligations.RaiseFaultSetsOneBit : Prop :=
  (∀ (f : FaultCause) (s : State),
    (statusWord (raiseFault f s).status).getLsbD (faultBit f) = true ∧
    (∀ k : Nat, k ≠ faultBit f →
      (statusWord (raiseFault f s).status).getLsbD k = (statusWord s.status).getLsbD k) ∧
    raiseFault f s = { s with status := (raiseFault f s).status, response := none }) ∧
  ∀ (f : FaultCause) (i : Instr) (s : State),
    ∃ t u, exec i s = .next t ∧ exec i (raiseFault f s) = .next u ∧
      u.crc = t.crc ∧ u.ptr = t.ptr ∧ u.mem = t.mem ∧ (i ≠ .rdstat → u.response = t.response)

/-- R21, R22: in every transition but a reset, a STATUS bit is set afterwards exactly when it was set before or
its event happened: an illegal word for ILL, a RANGE out of bounds for RANGE. Reset clears both. -/
def Obligations.FaultBitsAreSticky : Prop :=
  ∀ s t : State, step s = .next t →
    (s.host.head? = some .reset → t.status = ⟨false, false⟩) ∧
    (s.host.head? ≠ some .reset →
      (t.status.ill = true ↔ s.status.ill = true ∨
        ∃ w, s.host.head? = some (.present w) ∧ decode w = none) ∧
      (t.status.range = true ↔ s.status.range = true ∨
        ∃ w n, s.host.head? = some (.present w) ∧ decode w = some (.range n) ∧
          s.inputSize.toNat < s.ptr.toNat + n.toNat))

/-- R101: no transition sets both bits; an illegal word, whatever its opcode byte, sets ILL and not RANGE. -/
def Obligations.AtMostOneFaultACommand : Prop :=
  (∀ s t : State, step s = .next t →
    (t.status.ill = s.status.ill ∨ t.status.range = s.status.range ∨ s.host.head? = some .reset)) ∧
  ∀ (s : State) (w : Word64) (rest : List HostStep), decode w = none →
    ∃ t, step { s with host := .present w :: rest } = .next t ∧
      t.status.ill = true ∧ t.status.range = s.status.range

/-- R48: a transition gives the response v exactly when it executes one of the three read commands and v is what
that command reads; every other command, every illegal word and every other host step gives none. -/
def Obligations.ResponseExactlyForReads : Prop :=
  ∀ (s t : State) (v : Word32), step s = .next t →
    (t.response = some v ↔
      ∃ w, s.host.head? = some (.present w) ∧
        ((decode w = some .rdcrc ∧ v = s.crc) ∨ (decode w = some .rdptr ∧ v = s.ptr) ∨
          (decode w = some .rdstat ∧ v = statusWord s.status)))

/-! ## The engine and its host -/

/-- R46, R49: a presented word that decodes is executed, with the host's later moves left as they are; so is the
word that `withFetchWord` places. -/
def Obligations.StepRunsTheDecodedCommand : Prop :=
  (∀ (s : State) (w : Word64) (rest : List HostStep) (i : Instr), decode w = some i →
    step { s with host := .present w :: rest } = exec i { s with host := rest }) ∧
  ∀ (s : State) (i : Instr), step (s.withFetchWord 64 (encode i).toNat) = exec i s

/-- R111: the host's reset clears CRC, PTR and STATUS and touches no byte of input memory; nothing else clears a
bit of STATUS. -/
def Obligations.ResetStep : Prop :=
  (∀ (s : State) (rest : List HostStep),
    step { s with host := .reset :: rest } =
      .next { s with
        crc := 0x00000000#32, ptr := 0x00000000#32, status := ⟨false, false⟩
        response := none, host := rest }) ∧
  ∀ s t : State, step s = .next t → s.host.head? ≠ some .reset →
    (s.status.ill = true → t.status.ill = true) ∧ (s.status.range = true → t.status.range = true)

/-- R112: the reset state, whatever INPUT_SIZE is and the input memory holds; and the same registers in the
model's `State.reset` (whose INPUT_SIZE and memory are its own choice: log entries 3 and 4). -/
def Obligations.ResetStateValues : Prop :=
  (∀ (size : Word32) (m : Memory),
    (State.resetWith size m).crc = 0x00000000#32 ∧ (State.resetWith size m).ptr = 0x00000000#32 ∧
    (State.resetWith size m).status.ill = false ∧ (State.resetWith size m).status.range = false ∧
    statusWord (State.resetWith size m).status = 0x00000000#32 ∧
    (State.resetWith size m).inputSize = size ∧ (State.resetWith size m).mem = m ∧
    (State.resetWith size m).response = none) ∧
  State.reset.crc = 0x00000000#32 ∧ State.reset.ptr = 0x00000000#32 ∧
  statusWord State.reset.status = 0x00000000#32 ∧ State.reset.response = none

/-- R40, R41: a host write below INPUT_SIZE stores its byte and changes no other byte and no register. -/
def Obligations.HostWriteStep : Prop :=
  ∀ (s : State) (a : Word32) (b : Byte) (rest : List HostStep),
    s.wf = true → a.toNat < s.inputSize.toNat →
    ∃ t, step { s with host := .write a b :: rest } = .next t ∧
      memRead t a.toNat = b ∧ (∀ c : Nat, c ≠ a.toNat → memRead t c = memRead s c) ∧
      t.crc = s.crc ∧ t.ptr = s.ptr ∧ t.status = s.status ∧ t.inputSize = s.inputSize ∧ t.host = rest

/-- The model stops in one place only, and that by its own choice (log entry 8, from R31 and R40): a host write
at or above INPUT_SIZE. Every other transition goes on; nothing is refused. -/
def Obligations.OnlyHostWritesOutsideStop : Prop :=
  ∀ s : State,
    ((∃ a b rest, s.host = .write a b :: rest ∧ s.inputSize.toNat ≤ a.toNat) ∧
      step s = .fault .hostWriteOutsideInput) ∨
    ((¬ ∃ a b rest, s.host = .write a b :: rest ∧ s.inputSize.toNat ≤ a.toNat) ∧
      ∃ t, step s = .next t)

/-- R110 with log entry 7 (the model's choice of a step with no host move): the engine holds its state; only an
earlier response is gone. -/
def Obligations.IdleStepHoldsState : Prop :=
  ∀ s : State, step { s with host := [] } = .next { s with host := [], response := none }

/-- R40, R99: with a host that keeps its duty the machine never stops, however long it runs. -/
def Obligations.AllowedHostNeverStops : Prop :=
  ∀ (k : Nat) (s : State), s.hostAllowed = true →
    ∃ t : State, Host.Core.run core k s = .next t ∧ t.hostAllowed = true ∧ t.inputSize = s.inputSize

/-! ## Invariants and memory -/

/-- Every transition keeps the input memory in its canonical form and within INPUT_SIZE (R31). -/
def Obligations.StepKeepsWellFormed : Prop :=
  ∀ s t : State, s.wf = true → step s = .next t → t.wf = true

/-- The reset state is well formed; so is a reset of any well-formed state (R111). -/
def Obligations.ResetIsWellFormed : Prop :=
  State.reset.wf = true ∧ ∀ s : State, s.wf = true → (assertReset s).wf = true

/-- R33, R41: a read gives the byte most recently written there. -/
def Obligations.ReadAfterWrite : Prop :=
  ∀ (m : Memory) (a c : Nat) (b : Byte), m.wf = true →
    (m.write a b).read c = if c = a then b else m.read c

/-- Memories in canonical form that read the same everywhere are the same data. -/
def Obligations.CanonicalMemoryIsUnique : Prop :=
  ∀ m m' : Memory, m.wf = true → m'.wf = true → (∀ a : Nat, m.read a = m'.read a) → m = m'

/-! ## Clients -/

/-- R89: the gzip trailer's eight bytes. -/
def Obligations.GzipTrailerLayout : Prop :=
  (∀ (c : Word32) (length k : Nat), k < 4 →
    (gzipTrailer c length)[k]? = some (c.extractLsb' (8 * k) 8) ∧
    (gzipTrailer c length)[4 + k]? =
      some ((BitVec.ofNat 32 (length % 2 ^ 32)).extractLsb' (8 * k) 8)) ∧
  (∀ (c : Word32) (length : Nat), (gzipTrailer c length).length = 8) ∧
  le32 0xCBF43926#32 = [0x26#8, 0x39#8, 0xF4#8, 0xCB#8]

/-- R91, R94 (PRESUMED, log entry 17): the header CRC field is there exactly when FHCRC is set, holds the low 16
bits of the header's CRC, low byte first, and does not depend on how the header was split into calls. -/
def Obligations.HeaderCrcField : Prop :=
  ∀ chunks : List (List Byte),
    headerCrcField false chunks.flatten = [] ∧
    headerCrcField true chunks.flatten =
      [(chunks.foldl crcUpdate 0#32).extractLsb' 0 8, (chunks.foldl crcUpdate 0#32).extractLsb' 8 8]

/-- R93, R91, R88, with the model's choices (log entries 17, 18, 20, 21, 22: which bytes the field covers, a BAD
session, no use of the session's engine, fields of any size, the answer where no check applies): in a gzip session a header CRC field that matches passes; any other is a DATA-ERROR and makes
the session BAD; a session of another wrap is left as it is; a BAD session passes no header and no trailer. -/
def Obligations.HeaderCrcCheck : Prop :=
  ∀ (fhcrc : Bool) (header field : List Byte) (ss : Session),
    (ss.bad = false → ss.wrap = .gzip → field = headerCrcField fhcrc header →
      sessionHeaderCheck fhcrc header field ss = (.ok, ss)) ∧
    (ss.bad = false → ss.wrap = .gzip → field ≠ headerCrcField fhcrc header →
      sessionHeaderCheck fhcrc header field ss = (.dataError, { ss with bad := true })) ∧
    (ss.bad = false → ss.wrap ≠ .gzip →
      sessionHeaderCheck fhcrc header field ss = (.noCrcCheck, ss)) ∧
    (ss.bad = true → sessionHeaderCheck fhcrc header field ss = (.dataError, ss) ∧
      sessionCheck field ss = (.dataError, ss))

/-- R95, R73: a changed byte of the trailer's CRC field is always detected, and the update over the data and the
four CRC bytes gives the residue exactly when the field matches. That the trailer's CRC is over the data and nothing
else (`trailerCrc`) is PRESUMED (log entry 17). -/
def Obligations.TrailerCorruptionIsDetected : Prop :=
  (∀ (data : List Byte) (k : Nat) (b : Byte), k < 4 →
    (gzipTrailer (trailerCrc data) data.length)[k]? ≠ some b →
    trailerStatus (trailerCrc data) data.length
      ((gzipTrailer (trailerCrc data) data.length).set k b) = .dataError) ∧
  ∀ (data : List Byte) (field : Word32),
    crcUpdate initValue (data ++ le32 field) = 0x2144DF1C#32 ↔ field = trailerCrc data

/-- R94, R88: feeding a session in any chunks is feeding it the whole data at once; a gzip session's running
checksum is then the CRC of the data fed, from where it stood. That a session feeds by BYTE commands and that a BAD
one, which the first clause covers too, takes nothing, is the model's choice (log entry 18). -/
def Obligations.SessionFeedingIgnoresChunking : Prop :=
  (∀ (chunks : List (List Byte)) (ss : Session),
    sessionFeedAll chunks ss = sessionFeed chunks.flatten ss) ∧
  ∀ (data : List Byte) (ss : Session), ss.wrap = .gzip → ss.bad = false →
    ∃ t, sessionFeed data ss = .next t ∧ t.engine.crc = crcUpdate ss.engine.crc data ∧
      t.length = ss.length + data.length ∧ t.bad = false ∧ t.wrap = .gzip

/-- R90, R92, R93: the trailer that a gzip session writes for its data passes the check of a gzip session that
produced the same data; any other trailer is a DATA-ERROR and leaves the session BAD until its explicit reset. The
rules do not say all of it: which bytes the CRC covers is PRESUMED (log entry 17); that a BAD session takes no data
(log entry 18) and that a trailer of another size than eight bytes is a mismatch (log entry 21) are the model's
choices. -/
def Obligations.SessionTrailerCheck : Prop :=
  ∀ (size size' : Word32) (data trailer : List Byte),
    ∃ t u, sessionFeed data (sessionStart .gzip size) = .next t ∧
      sessionFeed data (sessionStart .gzip size') = .next u ∧
      sessionTrailer t = some (gzipTrailer (crcUpdate 0#32 data) data.length) ∧
      (sessionTrailer t = some trailer → sessionCheck trailer u = (.ok, u)) ∧
      (sessionTrailer t ≠ some trailer →
        (sessionCheck trailer u).1 = .dataError ∧ (sessionCheck trailer u).2.bad = true ∧
        (∀ more : List Byte, sessionFeed more (sessionCheck trailer u).2 = .next (sessionCheck trailer u).2) ∧
        (sessionReset (sessionCheck trailer u).2).bad = false ∧
        (sessionReset (sessionCheck trailer u).2).engine.crc = 0#32)

/-- R88: a session without the gzip wrap does not use the engine: whatever data it is fed and whatever is checked, its
engine stays as it is and it does not become BAD; a raw session has no trailer, and a zlib one none from this engine.
(What a BAD session does and what the checks answer here are the model's: log entries 18, 22 and 23.) -/
def Obligations.SessionWithoutGzipLeavesEngine : Prop :=
  ∀ ss : Session, ss.wrap ≠ .gzip →
    (∀ data : List Byte, ∃ t, sessionFeed data ss = .next t ∧ t.engine = ss.engine ∧ t.bad = ss.bad ∧
      t.wrap = ss.wrap ∧ (ss.bad = false → t.length = ss.length + data.length)) ∧
    (∀ (fhcrc : Bool) (header field trailer : List Byte),
      (sessionHeaderCheck fhcrc header field ss).2 = ss ∧ (sessionCheck trailer ss).2 = ss ∧
      (ss.bad = false → (sessionCheck trailer ss).1 = .noCrcCheck)) ∧
    (ss.wrap = .raw → sessionTrailer ss = some []) ∧ (ss.wrap = .zlib → sessionTrailer ss = none)

/-! ## Several instances -/

/-- R105, R30: a transition of one instance leaves every other instance as it is, and what it does depends on that
instance alone. The last clause is the model's choice: that an instance can stop at all (log entry 8) and that its stop
is the platform's (log entry 12). -/
def Obligations.InstancesAreIndependent : Prop :=
  ∀ (p : Platform) (k : Nat) (s : State), p.engines[k]? = some s →
    (∀ t, step s = .next t →
      ∃ q, p.step k = some (.next q) ∧ q.nEngines = p.nEngines ∧
        q.engines[k]? = some t ∧ ∀ j : Nat, j ≠ k → q.engines[j]? = p.engines[j]?) ∧
    ∀ r, step s = .fault r → p.step k = some (.fault r)

/-- R7, R105: a platform has at least one instance; the instances of a platform after reset are each in their own
reset state, with the size of input memory given for each. (That their memories list nothing is the model's choice:
log entry 4.) -/
def Obligations.PlatformHasAtLeastOneInstance : Prop :=
  (∀ p : Platform, 1 ≤ p.nEngines ∧ p.engines[0]?.isSome = true) ∧
  ∀ (first : Word32) (others : List Word32),
    (Platform.resetWith first others).nEngines = others.length + 1 ∧
    ∀ (k : Nat) (size : Word32), (first :: others)[k]? = some size →
      (Platform.resetWith first others).engines[k]? = some (State.resetWith size [])
end

