-- ==== Sys2Proof/Laws/Clients.lean ====
section
/-! SUPPORT. What a comparison's outcome does to a session, the one operation that the two checks share. -/

namespace Sys2Proof.Machine

theorem usesEngine_iff (w : Wrap) : usesEngine w = true ↔ w = .gzip := by
  cases w <;> simp [usesEngine]

/-- BAD stays BAD; without the gzip wrap nothing changes; with it a match passes and anything else makes it BAD. -/
theorem sessionVerdict_cases (compared : ClientStatus) (ss : Session) :
    (ss.bad = true ∧ sessionVerdict compared ss = (.dataError, ss)) ∨
    (ss.bad = false ∧ ss.wrap ≠ .gzip ∧ sessionVerdict compared ss = (.noCrcCheck, ss)) ∨
    (ss.bad = false ∧ ss.wrap = .gzip ∧ compared = .ok ∧ sessionVerdict compared ss = (.ok, ss)) ∨
    (ss.bad = false ∧ ss.wrap = .gzip ∧ compared ≠ .ok ∧
      sessionVerdict compared ss = (compared, { ss with bad := true })) := by
  obtain ⟨wrap, engine, length, bad⟩ := ss
  cases bad with
  | true => exact .inl ⟨rfl, rfl⟩
  | false =>
    by_cases hw : wrap = .gzip
    · subst hw
      by_cases hc : compared = .ok
      · exact .inr (.inr (.inl ⟨rfl, rfl, hc, by simp [sessionVerdict, usesEngine, hc]⟩))
      · exact .inr (.inr (.inr ⟨rfl, rfl, hc, by simp [sessionVerdict, usesEngine, hc]⟩))
    · have hu : usesEngine wrap = false := Bool.eq_false_iff.mpr (mt (usesEngine_iff wrap).mp hw)
      exact .inr (.inl ⟨rfl, hw, by simp [sessionVerdict, hu]⟩)

end Sys2Proof.Machine
end

