-- ==== Sys2Proof/Laws/Crc.lean ====
section
/-! SUPPORT. The byte loop of the CRC function, one byte at a time. -/

namespace Sys2Proof.Machine

theorem crcRaw_nil (r : Word32) : crcRaw r [] = r := rfl

theorem crcRaw_cons (r : Word32) (b : Byte) (bytes : List Byte) :
    crcRaw r (b :: bytes) = crcRaw (crcRawStep r b) bytes := rfl

/-- A shift step is linear over XOR. -/
theorem crcShift_xor (x y : Word32) : crcShift (x ^^^ y) = crcShift x ^^^ crcShift y := by
  have hs : (x ^^^ y) >>> 1 = x >>> 1 ^^^ y >>> 1 := by
    apply BitVec.eq_of_getLsbD_eq; intro i _; simp
  have hb : (x ^^^ y).getLsbD 0 = (x.getLsbD 0 ^^ y.getLsbD 0) := by simp
  unfold crcShift
  rw [hb, hs]
  cases x.getLsbD 0 <;> cases y.getLsbD 0 <;> simp only [Bool.xor_false, Bool.xor_true, Bool.not_true,
    Bool.not_false, Bool.false_eq_true, if_true, if_false]
  · ac_rfl
  · ac_rfl
  · have : poly ^^^ x >>> 1 ^^^ (poly ^^^ y >>> 1) = (poly ^^^ poly) ^^^ (x >>> 1 ^^^ y >>> 1) := by ac_rfl
    rw [this, BitVec.xor_self, BitVec.zero_xor]

end Sys2Proof.Machine
end

