-- ==== Sys2Proof/Laws/Decode.lean ====
section
/-! SUPPORT. Fields and words are each other's inverse (spec/30_encoding.md R47), and so are words and bus bytes
(spec/20_memory.md R36). -/

namespace Sys2Proof

/-- The fields of a word laid out from fields are those fields. -/
theorem fieldsOf_packFields (f : Fields) : fieldsOf (packFields f) = f := by
  obtain ⟨op, b8, rsv, imm32⟩ := f
  simp only [fieldsOf, packFields, Fields.mk.injEq]
  refine ⟨?_, ?_, ?_, ?_⟩ <;>
    · apply BitVec.eq_of_getLsbD_eq
      intro i hi
      simp only [BitVec.getLsbD_extractLsb', BitVec.getLsbD_append]
      grind

/-- A word laid out from its own fields is that word. -/
theorem packFields_fieldsOf (w : Word64) : packFields (fieldsOf w) = w := by
  apply BitVec.eq_of_getLsbD_eq
  intro i hi
  simp only [fieldsOf, packFields, BitVec.getLsbD_extractLsb', BitVec.getLsbD_append]
  grind

/-- A word determines its fields and the fields the word. -/
theorem eq_packFields_iff (w : Word64) (f : Fields) : w = packFields f ↔ fieldsOf w = f := by
  constructor
  · rintro rfl
    exact fieldsOf_packFields f
  · rintro rfl
    exact (packFields_fieldsOf w).symm

/-- The bus gives a word back from its bytes. -/
theorem busWord_busBytes (w : Word64) (rest : List Byte) : busWord (busBytes w ++ rest) = some (w, rest) := by
  simp only [busBytes, List.cons_append, List.nil_append, busWord, Option.some.injEq, Prod.mk.injEq,
    and_true]
  apply BitVec.eq_of_getLsbD_eq
  intro i hi
  simp only [BitVec.getLsbD_extractLsb', BitVec.getLsbD_append]
  grind

/-- A word within its table width is the word of its bits. -/
theorem tableWord_toNat (w : Word64) : tableWord 64 w.toNat = w := by
  simp [tableWord, Nat.mod_eq_of_lt w.isLt]

end Sys2Proof
end

