-- ==== Sys2Proof/Laws/State.lean ====
section
/-! SUPPORT. What each one-field update does to each field of the state. -/

namespace Sys2Proof.Machine

@[simp] theorem withCrc_crc (s : State) (v : Word32) : (s.withCrc v).crc = v := rfl
@[simp] theorem withCrc_ptr (s : State) (v : Word32) : (s.withCrc v).ptr = s.ptr := rfl
@[simp] theorem withCrc_status (s : State) (v : Word32) : (s.withCrc v).status = s.status := rfl
@[simp] theorem withCrc_inputSize (s : State) (v : Word32) : (s.withCrc v).inputSize = s.inputSize := rfl
@[simp] theorem withCrc_mem (s : State) (v : Word32) : (s.withCrc v).mem = s.mem := rfl
@[simp] theorem withCrc_response (s : State) (v : Word32) : (s.withCrc v).response = s.response := rfl
@[simp] theorem withCrc_host (s : State) (v : Word32) : (s.withCrc v).host = s.host := rfl

@[simp] theorem withPtr_crc (s : State) (v : Word32) : (s.withPtr v).crc = s.crc := rfl
@[simp] theorem withPtr_ptr (s : State) (v : Word32) : (s.withPtr v).ptr = v := rfl
@[simp] theorem withPtr_status (s : State) (v : Word32) : (s.withPtr v).status = s.status := rfl
@[simp] theorem withPtr_inputSize (s : State) (v : Word32) : (s.withPtr v).inputSize = s.inputSize := rfl
@[simp] theorem withPtr_mem (s : State) (v : Word32) : (s.withPtr v).mem = s.mem := rfl
@[simp] theorem withPtr_response (s : State) (v : Word32) : (s.withPtr v).response = s.response := rfl
@[simp] theorem withPtr_host (s : State) (v : Word32) : (s.withPtr v).host = s.host := rfl

@[simp] theorem withStatus_crc (s : State) (v : Status) : (s.withStatus v).crc = s.crc := rfl
@[simp] theorem withStatus_ptr (s : State) (v : Status) : (s.withStatus v).ptr = s.ptr := rfl
@[simp] theorem withStatus_status (s : State) (v : Status) : (s.withStatus v).status = v := rfl
@[simp] theorem withStatus_inputSize (s : State) (v : Status) : (s.withStatus v).inputSize = s.inputSize := rfl
@[simp] theorem withStatus_mem (s : State) (v : Status) : (s.withStatus v).mem = s.mem := rfl
@[simp] theorem withStatus_response (s : State) (v : Status) : (s.withStatus v).response = s.response := rfl
@[simp] theorem withStatus_host (s : State) (v : Status) : (s.withStatus v).host = s.host := rfl

@[simp] theorem withMem_crc (s : State) (v : Memory) : (s.withMem v).crc = s.crc := rfl
@[simp] theorem withMem_ptr (s : State) (v : Memory) : (s.withMem v).ptr = s.ptr := rfl
@[simp] theorem withMem_status (s : State) (v : Memory) : (s.withMem v).status = s.status := rfl
@[simp] theorem withMem_inputSize (s : State) (v : Memory) : (s.withMem v).inputSize = s.inputSize := rfl
@[simp] theorem withMem_mem (s : State) (v : Memory) : (s.withMem v).mem = v := rfl
@[simp] theorem withMem_response (s : State) (v : Memory) : (s.withMem v).response = s.response := rfl
@[simp] theorem withMem_host (s : State) (v : Memory) : (s.withMem v).host = s.host := rfl

@[simp] theorem withResponse_crc (s : State) (v : Option Word32) : (s.withResponse v).crc = s.crc := rfl
@[simp] theorem withResponse_ptr (s : State) (v : Option Word32) : (s.withResponse v).ptr = s.ptr := rfl
@[simp] theorem withResponse_status (s : State) (v : Option Word32) : (s.withResponse v).status = s.status := rfl
@[simp] theorem withResponse_inputSize (s : State) (v : Option Word32) : (s.withResponse v).inputSize = s.inputSize := rfl
@[simp] theorem withResponse_mem (s : State) (v : Option Word32) : (s.withResponse v).mem = s.mem := rfl
@[simp] theorem withResponse_response (s : State) (v : Option Word32) : (s.withResponse v).response = v := rfl
@[simp] theorem withResponse_host (s : State) (v : Option Word32) : (s.withResponse v).host = s.host := rfl

@[simp] theorem withHost_crc (s : State) (v : List HostStep) : (s.withHost v).crc = s.crc := rfl
@[simp] theorem withHost_ptr (s : State) (v : List HostStep) : (s.withHost v).ptr = s.ptr := rfl
@[simp] theorem withHost_status (s : State) (v : List HostStep) : (s.withHost v).status = s.status := rfl
@[simp] theorem withHost_inputSize (s : State) (v : List HostStep) : (s.withHost v).inputSize = s.inputSize := rfl
@[simp] theorem withHost_mem (s : State) (v : List HostStep) : (s.withHost v).mem = s.mem := rfl
@[simp] theorem withHost_response (s : State) (v : List HostStep) : (s.withHost v).response = s.response := rfl
@[simp] theorem withHost_host (s : State) (v : List HostStep) : (s.withHost v).host = v := rfl

end Sys2Proof.Machine
end

