-- ==== Sys2Proof/Laws/Ops.lean ====
section
/-! SUPPORT. What each shared operation can do, one lemma each; whoever uses the operation cites it. -/

namespace Sys2Proof.Machine

theorem complete_eq (s : State) : complete s = .next { s with response := none } := rfl

theorem respond_eq (v : Word32) (s : State) : respond v s = .next { s with response := some v } := rfl

/-- A raised fault is its STATUS bit and an empty response port (R96). -/
theorem raiseFault_eq (f : FaultCause) (s : State) :
    raiseFault f s = { s with status := setFault f s.status, response := none } := rfl

theorem illegalWord_eq (s : State) :
    illegalWord s = .next { s with status := ⟨true, s.status.range⟩, response := none } := rfl

/-- Reset is three cleared registers and an empty response port (R111). -/
theorem assertReset_eq (s : State) :
    assertReset s =
      { s with crc := 0#32, ptr := 0#32, status := ⟨false, false⟩, response := none } := rfl

/-- A host write stores its byte below INPUT_SIZE and stops anywhere else. -/
theorem hostWrite_cases (a : Word32) (b : Byte) (s : State) :
    (a.toNat < s.inputSize.toNat ∧
      hostWrite a b s = .next { s with mem := s.mem.write a.toNat b, response := none }) ∨
    (s.inputSize.toNat ≤ a.toNat ∧ hostWrite a b s = .fault .hostWriteOutsideInput) := by
  by_cases h : a.toNat < s.inputSize.toNat
  · exact .inl ⟨h, by simp only [hostWrite, if_pos h]; rfl⟩
  · exact .inr ⟨Nat.le_of_not_lt h, by simp only [hostWrite, if_neg h]⟩

theorem rangeFits_iff (n : Word32) (s : State) :
    rangeFits n s = true ↔ s.ptr.toNat + n.toNat ≤ s.inputSize.toNat := by
  simp [rangeFits]

theorem rangeFits_eq_false_iff (n : Word32) (s : State) :
    rangeFits n s = false ↔ s.inputSize.toNat < s.ptr.toNat + n.toNat := by
  simp [rangeFits]

/-- What RANGE does: either it fits and CRC and PTR are updated, or it does not and STATUS.RANGE is set (R85). -/
theorem execRange_cases (n : Word32) (s : State) :
    (s.ptr.toNat + n.toNat ≤ s.inputSize.toNat ∧
      execRange n s = .next { s with
        crc := crcUpdate s.crc (rangeBytes n s), ptr := s.ptr + n, response := none }) ∨
    (s.inputSize.toNat < s.ptr.toNat + n.toNat ∧
      execRange n s = .next { s with status := ⟨s.status.ill, true⟩, response := none }) := by
  by_cases h : rangeFits n s = true
  · exact .inl ⟨(rangeFits_iff n s).mp h, by simp only [execRange, if_pos h]; rfl⟩
  · have h' := (rangeFits_eq_false_iff n s).mp (by simpa using h)
    exact .inr ⟨h', by simp only [execRange, if_neg h]; rfl⟩

theorem andThen_next {α β : Type} (s : α) (k : α → Host.Outcome β Fault Refusal) :
    andThen (.next s) k = k s := rfl

theorem execAll_nil (s : State) : execAll [] s = .next s := rfl

theorem execAll_cons (i : Instr) (rest : List Instr) (s : State) :
    execAll (i :: rest) s = andThen (exec i s) (execAll rest) := rfl

end Sys2Proof.Machine
end

