-- ==== Sys2Proof/Laws/Exec.lean ====
section
/-! SUPPORT. What a transition can do: the one place where `step` is taken apart. -/

namespace Sys2Proof.Machine

/-- No command stops the machine: each answers a next state that keeps memory, INPUT_SIZE and the host's moves. -/
theorem exec_keeps_host_owned (i : Instr) (s : State) :
    ∃ t, exec i s = .next t ∧ t.mem = s.mem ∧ t.inputSize = s.inputSize ∧ t.host = s.host := by
  cases i with
  | range n =>
    rcases execRange_cases n s with ⟨_, h⟩ | ⟨_, h⟩ <;> exact ⟨_, h, rfl, rfl, rfl⟩
  | _ => exact ⟨_, rfl, rfl, rfl, rfl⟩

/-- What a transition that goes on was: the host did nothing, wrote a byte below INPUT_SIZE, asserted reset, or
presented a word, legal or illegal. -/
theorem step_cases (s t : State) (h : step s = .next t) :
    (s.host = [] ∧ t = { s with response := none }) ∨
    (∃ a b rest, s.host = .write a b :: rest ∧ a.toNat < s.inputSize.toNat ∧
      t = { s with host := rest, mem := s.mem.write a.toNat b, response := none }) ∨
    (∃ rest, s.host = .reset :: rest ∧ t = assertReset { s with host := rest }) ∨
    (∃ w rest i, s.host = .present w :: rest ∧ decode w = some i ∧ exec i { s with host := rest } = .next t) ∨
    (∃ w rest, s.host = .present w :: rest ∧ decode w = none ∧ t = raiseFault .ill { s with host := rest }) := by
  unfold step at h
  split at h
  · exact .inl ⟨‹_›, (Host.Outcome.next.inj h).symm⟩
  · rename_i a b rest hh
    rcases hostWrite_cases a b (s.withHost rest) with ⟨hlt, he⟩ | ⟨_, he⟩ <;> rw [he] at h
    · exact .inr (.inl ⟨a, b, rest, hh, hlt, (Host.Outcome.next.inj h).symm⟩)
    · cases h
  · rename_i rest hh
    exact .inr (.inr (.inl ⟨rest, hh, (Host.Outcome.next.inj h).symm⟩))
  · rename_i w rest hh
    split at h
    · exact .inr (.inr (.inr (.inl ⟨w, rest, _, hh, ‹_›, h⟩)))
    · exact .inr (.inr (.inr (.inr ⟨w, rest, hh, ‹_›, (Host.Outcome.next.inj h).symm⟩)))

end Sys2Proof.Machine
end

