-- ==== Sys2Proof/Laws/Flags.lean ====
section
/-! SUPPORT. The bits of the STATUS word (spec/10_state.md R20, R23). -/

namespace Sys2Proof.Machine

/-- Bit 0 is ILL, bit 1 is RANGE, every other bit is 0. -/
theorem statusWord_getLsbD (st : Status) (k : Nat) :
    (statusWord st).getLsbD k = ((k == 0 && st.ill) || (k == 1 && st.range)) := by
  obtain ⟨a, b⟩ := st
  match k with
  | 0 => cases a <;> cases b <;> decide
  | 1 => cases a <;> cases b <;> decide
  | k + 2 => simp [statusWord]

end Sys2Proof.Machine
end

