-- ==== Sys2Proof/Laws/Memory.lean ====
section
/-! SUPPORT. The canonical form of input memory and the operations that keep it; the bytes that a range reads. -/

namespace Sys2Proof.Machine

@[simp] theorem memory_read_nil (a : Nat) : Memory.read [] a = unwrittenByte := rfl

theorem memory_read_cons (k : Nat) (v : Byte) (rest : Memory) (a : Nat) :
    Memory.read ((k, v) :: rest) a = if k = a then v else Memory.read rest a := rfl

@[simp] theorem memory_wf_nil : Memory.wf [] = true := rfl

theorem memory_wf_pair (k : Nat) (v : Byte) (k' : Nat) (v' : Byte) (rest : Memory) :
    Memory.wf ((k, v) :: (k', v') :: rest) = true ↔
      v ≠ unwrittenByte ∧ k < k' ∧ Memory.wf ((k', v') :: rest) = true := by
  simp [Memory.wf, and_assoc]

/-- A canonical memory is a first entry that is no `unwrittenByte`, below every other entry, before a canonical
memory. -/
theorem memory_wf_cons (k : Nat) (v : Byte) (rest : Memory) :
    Memory.wf ((k, v) :: rest) = true ↔
      v ≠ unwrittenByte ∧ (∀ c ∈ rest, k < c.1) ∧ Memory.wf rest = true := by
  induction rest generalizing k v with
  | nil => simp [Memory.wf]
  | cons c rest ih =>
    obtain ⟨k', v'⟩ := c
    rw [memory_wf_pair, ih k' v']
    constructor
    · rintro ⟨hv, hk, hv', hlt, hw⟩
      refine ⟨hv, ?_, hv', hlt, hw⟩
      intro c hc
      rcases List.mem_cons.mp hc with rfl | hc
      · exact hk
      · exact Nat.lt_trans hk (hlt c hc)
    · rintro ⟨hv, hk, hv', hlt, hw⟩
      exact ⟨hv, hk (k', v') List.mem_cons_self, hv', hlt, hw⟩

/-- Below its first entry a canonical memory reads as unwritten. -/
theorem memory_read_below (m : Memory) (a : Nat) (h : ∀ c ∈ m, a < c.1) : m.read a = unwrittenByte := by
  induction m with
  | nil => rfl
  | cons c rest ih =>
    have hc : c.1 ≠ a := Nat.ne_of_gt (h c List.mem_cons_self)
    show (if c.1 = a then c.2 else Memory.read rest a) = unwrittenByte
    rw [if_neg hc]
    exact ih fun d hd => h d (List.mem_cons_of_mem _ hd)

/-- A write adds no address but its own. -/
theorem mem_of_mem_write (m : Memory) (a : Nat) (b : Byte) (c : Host.Cell) (h : c ∈ m.write a b) :
    c ∈ m ∨ c = (a, b) := by
  induction m with
  | nil =>
    by_cases hb : b = unwrittenByte <;> simp_all [Memory.write]
  | cons d rest ih =>
    obtain ⟨k, v⟩ := d
    simp only [Memory.write] at h
    split_ifs at h <;> simp only [List.mem_cons] at h ⊢ <;> tauto

/-- A write keeps the canonical form. -/
theorem memory_write_wf (m : Memory) (a : Nat) (b : Byte) (h : m.wf = true) : (m.write a b).wf = true := by
  induction m with
  | nil =>
    by_cases hb : b = unwrittenByte <;> simp [Memory.write, Memory.wf, hb]
  | cons d rest ih =>
    obtain ⟨k, v⟩ := d
    obtain ⟨hv, hlt, hw⟩ := (memory_wf_cons k v rest).mp h
    simp only [Memory.write]
    split_ifs with hak hb heq hb
    · exact h
    · refine (memory_wf_cons _ _ _).mpr ⟨hb, ?_, h⟩
      intro c hc
      rcases List.mem_cons.mp hc with rfl | hc
      · exact hak
      · exact Nat.lt_trans hak (hlt c hc)
    · exact hw
    · subst heq
      exact (memory_wf_cons _ _ _).mpr ⟨hb, hlt, hw⟩
    · refine (memory_wf_cons _ _ _).mpr ⟨hv, ?_, ih hw⟩
      intro c hc
      rcases mem_of_mem_write rest a b c hc with hc | rfl
      · exact hlt c hc
      · omega

theorem memory_within_iff (size : Nat) (m : Memory) : m.within size = true ↔ ∀ c ∈ m, c.1 < size := by
  simp [Memory.within]

/-- A write below `size` keeps every entry below `size`. -/
theorem memory_write_within (size : Nat) (m : Memory) (a : Nat) (b : Byte) (ha : a < size)
    (h : m.within size = true) : (m.write a b).within size = true := by
  rw [memory_within_iff] at h ⊢
  intro c hc
  rcases mem_of_mem_write m a b c hc with hc | rfl
  · exact h c hc
  · exact ha

@[simp] theorem readBytes_length (m : Memory) (a n : Nat) : (readBytes m a n).length = n := by
  induction n generalizing a with
  | zero => rfl
  | succ n ih => simp [readBytes, ih]

/-- Byte i of a range is the byte at its start plus i. -/
theorem readBytes_getElem? (m : Memory) (a n i : Nat) (h : i < n) :
    (readBytes m a n)[i]? = some (m.read (a + i)) := by
  induction n generalizing a i with
  | zero => omega
  | succ n ih =>
    cases i with
    | zero => simp [readBytes]
    | succ i =>
      have := ih (a + 1) i (by omega)
      simpa [readBytes, Nat.add_assoc, Nat.add_comm 1 i] using this

/-- A range is another range and the range after it. -/
theorem readBytes_add (m : Memory) (a n k : Nat) :
    readBytes m a (n + k) = readBytes m a n ++ readBytes m (a + n) k := by
  induction n generalizing a with
  | zero => simp [readBytes]
  | succ n ih =>
    have : n + 1 + k = n + k + 1 := by omega
    rw [this]
    simp [readBytes, ih, Nat.add_assoc, Nat.add_comm 1 n]

/-- What a range reads depends on the bytes at its addresses alone. -/
theorem readBytes_congr (m m' : Memory) (a n : Nat)
    (h : ∀ i, a ≤ i → i < a + n → m'.read i = m.read i) : readBytes m' a n = readBytes m a n := by
  induction n generalizing a with
  | zero => rfl
  | succ n ih =>
    simp only [readBytes]
    rw [h a (Nat.le_refl a) (by omega), ih (a + 1) fun i h1 h2 => h i (by omega) (by omega)]

/-- RANGE's bytes as a map over their indices. -/
theorem rangeBytes_eq_map (n : Word32) (s : State) :
    rangeBytes n s = (List.range n.toNat).map fun i => memRead s (s.ptr.toNat + i) := by
  apply List.ext_getElem?
  intro i
  by_cases hi : i < n.toNat
  · rw [rangeBytes, readBytes_getElem? _ _ _ _ hi]
    simp [rangeAddress, memRead, hi]
  · have h1 : (rangeBytes n s).length = n.toNat := by simp [rangeBytes]
    rw [List.getElem?_eq_none (by omega), List.getElem?_eq_none (by simp; omega)]

end Sys2Proof.Machine
end

