-- ==== Sys2Proof/Laws/PerInstr.lean ====
section
/-! SUPPORT. Statements about every command as syntax, one lemma a constructor. -/

namespace Sys2Proof.Laws.EncodesLegal

/-- The fields of a command's word are well formed: a legal opcode, reserved and unused fields zero (R55 to R57). -/
def Statement (i : Instr) : Prop := (encodeFields i).wf = true

theorem init : Statement .init := rfl

theorem load (value : Word32) : Statement (.load value) := rfl

theorem byte (b : Byte) : Statement (.byte b) := rfl

theorem setptr (address : Word32) : Statement (.setptr address) := rfl

theorem range (length : Word32) : Statement (.range length) := rfl

theorem rdcrc : Statement .rdcrc := rfl

theorem rdptr : Statement .rdptr := rfl

theorem rdstat : Statement .rdstat := rfl

end Sys2Proof.Laws.EncodesLegal
end

