-- ==== Sys2Proof/Laws/Platform.lean ====
section
/-! SUPPORT. What replacing one instance's state does to a platform, and what its transition can be. -/

namespace Sys2Proof.Machine

@[simp] theorem withEngine_engines (p : Platform) (k : Nat) (t : State) :
    (p.withEngine k t).engines = p.engines.set k t := rfl

@[simp] theorem withEngine_nEngines (p : Platform) (k : Nat) (t : State) :
    (p.withEngine k t).nEngines = p.nEngines := by
  simp [Platform.nEngines]

/-- A transition of instance `k` is the step of that instance's state. -/
theorem platformStep_of_getElem? (p : Platform) (k : Nat) (s : State) (h : p.engines[k]? = some s) :
    (∃ t, step s = .next t ∧ p.step k = some (.next (p.withEngine k t))) ∨
    (∃ r, step s = .fault r ∧ p.step k = some (.fault r)) ∨
    (∃ r, step s = .refused r ∧ p.step k = some (.refused r)) := by
  cases hs : step s with
  | next t => exact .inl ⟨t, rfl, by simp [Platform.step, h, hs]⟩
  | fault r => exact .inr (.inl ⟨r, rfl, by simp [Platform.step, h, hs]⟩)
  | refused r => exact .inr (.inr ⟨r, rfl, by simp [Platform.step, h, hs]⟩)

end Sys2Proof.Machine
end

