-- ==== Sys2Proof/Tests/Slice0.lean ====
section
/-! SUPPORT. Tests, with expected values from spec/95_test_vectors.md, and for each statement with hypotheses a witness
that meets them. -/

namespace Sys2Proof.Tests

open Sys2Proof.Machine

/-- ASCII "123456789" at addresses 0 to 8 (V-B2, P1). -/
def digits : Memory :=
  [(0, 0x31#8), (1, 0x32#8), (2, 0x33#8), (3, 0x34#8), (4, 0x35#8), (5, 0x36#8), (6, 0x37#8), (7, 0x38#8),
   (8, 0x39#8)]

/-- An engine over `digits` (INPUT_SIZE = 9). -/
def engine (crc ptr : Word32) (ill range : Bool) : State :=
  { State.resetWith 9#32 digits with crc := crc, ptr := ptr, status := ⟨ill, range⟩ }

/-- `(CRC, PTR, STATUS)` and the response after a transition that goes on. -/
def after (o : Host.Outcome State Fault Refusal) : Option (Word32 × Word32 × Word32 × Option Word32) :=
  match o with
  | .next t => some (t.crc, t.ptr, statusWord t.status, t.response)
  | .fault _ => none
  | .refused _ => none

/-- What a presented word does. -/
def present (w : Word64) (s : State) : Option (Word32 × Word32 × Word32 × Option Word32) :=
  after (step { s with host := [.present w] })

/-! ## Well-formedness: one ill-formed word for each check -/

/-- V-D1: opcode 09. -/
theorem test_wf_refuses_opcode :
    (fieldsOf 0x0000000000000009#64).opcodeLegal = false ∧ (fieldsOf 0x0000000000000009#64).wf = false := by decide

/-- V-D1: RSV = 0001. -/
theorem test_wf_refuses_reserved :
    (fieldsOf 0x0000000000010001#64).reservedZero = false ∧ (fieldsOf 0x0000000000010001#64).wf = false := by decide

/-- V-D1: INIT with IMM32 = 1; BYTE with IMM32 = 1; LOAD with B8 = 01. -/
theorem test_wf_refuses_unused :
    (fieldsOf 0x0000000100000001#64).unusedZero = false ∧ (fieldsOf 0x0000000100006103#64).wf = false ∧
      (fieldsOf 0x1234567800000102#64).wf = false := by decide

/-- R40: a host write at INPUT_SIZE is not allowed; the last byte is. -/
theorem test_host_allowed_refuses :
    HostStep.allowed 9 (.write 9#32 0#8) = false ∧ HostStep.allowed 9 (.write 8#32 0#8) = true := by decide

/-- A memory that lists an unwritten byte, and one out of order, are not canonical. -/
theorem test_memory_wf_refuses :
    Memory.wf [(0, 0x00#8)] = false ∧ Memory.wf [(1, 0x31#8), (0, 0x32#8)] = false ∧
      State.wf { State.resetWith 1#32 [] with mem := [(1, 0x31#8)] } = false := by decide

/-! ## Decoding: words from the tables of R54, R60 and V-D1 -/

theorem test_decode_init : decode 0x0000000000000001#64 = some .init := by decide
theorem test_decode_load : decode 0x1234567800000002#64 = some (.load 0x12345678#32) := by decide
theorem test_decode_byte : decode 0x0000000000006103#64 = some (.byte 0x61#8) := by decide
theorem test_decode_setptr : decode 0xFFFFFFFF00000004#64 = some (.setptr 0xFFFFFFFF#32) := by decide
theorem test_decode_range : decode 0x0000000900000005#64 = some (.range 9#32) := by decide
theorem test_decode_rdcrc : decode 0x0000000000000006#64 = some .rdcrc := by decide
theorem test_decode_rdptr : decode 0x0000000000000007#64 = some .rdptr := by decide
theorem test_decode_rdstat : decode 0x0000000000000008#64 = some .rdstat := by decide

/-- V-D1: illegal words. -/
theorem test_decode_illegal :
    decode 0x0000000000000000#64 = none ∧ decode 0x0000000000000101#64 = none ∧
      decode 0x00000000000000FF#64 = none ∧ decode 0xFFFFFFFFFFFF6103#64 = none ∧
      decode 0x0000000000000106#64 = none ∧ decode 0x0000000000010006#64 = none := by decide

/-- R47: the bytes 05 00 00 00 09 00 00 00 on the bus are `crc.range 9`. -/
theorem test_decode_bus :
    decodeBytes [0x05#8, 0#8, 0#8, 0#8, 0x09#8, 0#8, 0#8, 0#8, 0xAA#8] = some (some (.range 9#32), [0xAA#8]) ∧
      decodeTableWord 64 0x0000000900000005 = some (.range 9#32) := by decide

/-! ## The commands -/

/-- V-R1: INIT keeps PTR and STATUS. -/
theorem test_init_keeps_status :
    present 0x0000000000000001#64 (engine 0xCBF43926#32 5#32 true true) = some (0#32, 5#32, 3#32, none) := by decide

/-- V-R1. -/
theorem test_load_any_value :
    present 0xFFFFFFFF00000002#64 (engine 0#32 0#32 false false) = some (0xFFFFFFFF#32, 0#32, 0#32, none) := by
  decide

/-- V-R1: no check, no fault. -/
theorem test_setptr_unchecked :
    present 0xFFFFFFFF00000004#64 (engine 0#32 0#32 false false) = some (0#32, 0xFFFFFFFF#32, 0#32, none) := by
  decide

/-- V-B1: the second byte of "ab". -/
theorem test_byte_seeded :
    present 0x0000000000006203#64 (engine 0xE8B7BE43#32 7#32 false true) =
      some (0x9E83486D#32, 7#32, 2#32, none) := by decide

/-- V-B1: the fixed point, raw 0 with byte 0. -/
theorem test_byte_fixed_point :
    present 0x0000000000000003#64 (engine 0xFFFFFFFF#32 0#32 false false) =
      some (0xFFFFFFFF#32, 0#32, 0#32, none) := by decide

/-- V-B2: PTR + n = INPUT_SIZE exactly, reads "6789". -/
theorem test_range_to_the_end :
    present 0x0000000400000005#64 (engine 0#32 5#32 false false) = some (0x9DBABF87#32, 9#32, 0#32, none) := by
  decide +kernel

/-- V-B2: a u32 sum would wrap to 0; the Nat sum does not. -/
theorem test_range_no_wrap :
    present 0x0000000100000005#64 (engine 0#32 0xFFFFFFFF#32 false false) =
      some (0#32, 0xFFFFFFFF#32, 2#32, none) := by decide

/-- V-R1. -/
theorem test_rdcrc_responds :
    present 0x0000000000000006#64 (engine 0xCBF43926#32 9#32 false false) =
      some (0xCBF43926#32, 9#32, 0#32, some 0xCBF43926#32) := by decide

/-- V-R1. -/
theorem test_rdptr_responds :
    present 0x0000000000000007#64 (engine 0xCBF43926#32 9#32 false false) =
      some (0xCBF43926#32, 9#32, 0#32, some 9#32) := by decide

/-- V-R1: not cleared. -/
theorem test_rdstat_responds :
    present 0x0000000000000008#64 (engine 0#32 0#32 true true) = some (0#32, 0#32, 3#32, some 3#32) := by decide

/-! ## Faults, host steps -/

/-- V-E1: RANGE's opcode with RSV ≠ 0 is ILL and not RANGE. -/
theorem test_decode_before_bound_check :
    present 0xFFFFFFFF00010005#64 (engine 0xCBF43926#32 1#32 false false) =
      some (0xCBF43926#32, 1#32, 1#32, none) := by decide

/-- V-E1: reset clears STATUS. -/
theorem test_reset_clears :
    after (step { engine 0xCBF43926#32 9#32 true true with host := [.reset] }) =
      some (0#32, 0#32, 0#32, none) := by decide

/-- R40: a host write of the last byte, in canonical form; one past it stops. -/
theorem test_host_write_edges :
    (step { State.resetWith 9#32 [] with host := [.write 8#32 0x39#8] } =
      .next { State.resetWith 9#32 [] with mem := [(8, 0x39#8)] }) ∧
    step { State.resetWith 9#32 [] with host := [.write 9#32 0x39#8] } = .fault .hostWriteOutsideInput :=
  ⟨rfl, rfl⟩

/-- Writing the value that an unlisted address reads as removes the entry. -/
theorem test_write_removes_entry :
    Memory.write [(1, 0x31#8), (4, 0x32#8)] 4 0x00#8 = [(1, 0x31#8)] ∧
      Memory.write [(1, 0x31#8), (4, 0x32#8)] 2 0x33#8 = [(1, 0x31#8), (2, 0x33#8), (4, 0x32#8)] := by decide

/-- The word that the host's probe places is the next one run, from the reset state. -/
theorem test_fetch_word_runs : after (step (State.reset.withFetchWord 64 0x6103)) =
    some (0xE8B7BE43#32, 0#32, 0#32, none) := by decide

/-! ## The CRC function, assembler and clients -/

/-- V-F2: ASCII "abc", and four zero bytes. -/
theorem test_update_vectors :
    crcUpdate 0#32 [0x61#8, 0x62#8, 0x63#8] = 0x352441C2#32 ∧
      crcUpdate 0#32 [0#8, 0#8, 0#8, 0#8] = 0x2144DF1C#32 := by decide +kernel

/-- R60: `crc.range 9 ; all of it`, and an operand that does not fit. -/
theorem test_assemble_text :
    assembleText ['c', 'r', 'c', '.', 'r', 'a', 'n', 'g', 'e', ' ', '0', 'x', '9', ' ', ';', 'n'] =
      some [0x0000000900000005#64] ∧
    assembleText ['c', 'r', 'c', '.', 'b', 'y', 't', 'e', ' ', '2', '5', '6'] = none := by decide +kernel

/-- R62: `crc.region 16, 9`; a comment alone is no command. -/
theorem test_assemble_region :
    assembleText ['c', 'r', 'c', '.', 'r', 'e', 'g', 'i', 'o', 'n', ' ', '1', '6', ',', ' ', '9'] =
      some [0x0000001000000004#64, 0x0000000900000005#64] ∧
    assembleText [';', 'x'] = some [] := by decide +kernel

/-- V-C1: the trailer of "abc". -/
theorem test_gzip_trailer :
    gzipTrailer 0x352441C2#32 3 = [0xC2#8, 0x41#8, 0x24#8, 0x35#8, 0x03#8, 0x00#8, 0x00#8, 0x00#8] := by decide

/-- V-C2: the header CRC of the fixed ten bytes, stored as A7 77. -/
theorem test_header_crc :
    headerCrcField true [0x1F#8, 0x8B#8, 0x08#8, 0x02#8, 0#8, 0#8, 0#8, 0#8, 0#8, 0x03#8] = [0xA7#8, 0x77#8] := by
  decide +kernel

/-! ## Witnesses: the hypotheses of the statements can be met, at the values where clauses meet -/

theorem witness_IllegalWordsRaiseIll : decode 0x0000000000000000#64 = none ∧ decode 0x0000000000010001#64 = none ∧
    decode 0x0000000100000001#64 = none ∧ decode 0x0000000000000009#64 = none := by decide

theorem witness_OpcodeMapSelectsTheCommand :
    ∃ row ∈ opcodeMap, rowSelected row 0x0000000000006103#64 = true ∧ row.opcode = 0x03#8 := by decide

theorem witness_BusOrderIsLittleEndian :
    (busBytes 0x1234567800000002#64)[0]? = some 0x02#8 ∧ (busBytes 0x1234567800000002#64)[7]? = some 0x12#8 ∧
      (le32 0x12345678#32)[0]? = some 0x78#8 ∧ (le32 0x12345678#32)[3]? = some 0x12#8 := by decide

theorem witness_InitResult : (engine 0#32 5#32 true false).crc = 0#32 := by decide

/-- At INPUT_SIZE with lengths 0 and 1, and beyond it. -/
theorem witness_SetptrResult :
    (engine 0#32 0#32 false false).inputSize.toNat ≤ (9#32 : Word32).toNat ∧
      (engine 0#32 0#32 false false).inputSize.toNat ≤ (10#32 : Word32).toNat ∧
      after (execAll [.setptr 9#32, .range 0#32] (engine 0#32 0#32 false false)) = some (0#32, 9#32, 0#32, none) ∧
      after (execAll [.setptr 9#32, .range 1#32] (engine 0#32 0#32 false false)) = some (0#32, 9#32, 2#32, none) ∧
      after (execAll [.setptr 10#32, .range 0#32] (engine 0#32 0#32 false false)) =
        some (0#32, 10#32, 2#32, none) := by decide

theorem witness_RdptrResult :
    (engine 0#32 5#32 false false).inputSize.toNat <
      (engine 0#32 5#32 false false).ptr.toNat + (5#32 : Word32).toNat := by decide

/-- PTR + n one past INPUT_SIZE, and exactly INPUT_SIZE. -/
theorem witness_RangeResult :
    (engine 0#32 5#32 false false).inputSize.toNat <
      (engine 0#32 5#32 false false).ptr.toNat + (5#32 : Word32).toNat ∧
    (engine 0#32 5#32 false false).ptr.toNat + (4#32 : Word32).toNat =
      (engine 0#32 5#32 false false).inputSize.toNat := by decide

theorem witness_RangeCompletesInBounds :
    (engine 0#32 5#32 false false).ptr.toNat + (4#32 : Word32).toNat ≤
      (engine 0#32 5#32 false false).inputSize.toNat ∧ 3 < (4#32 : Word32).toNat := by decide

theorem witness_RangeFaultOnlyOutOfBounds :
    (engine 0#32 10#32 false false).inputSize.toNat <
      (engine 0#32 10#32 false false).ptr.toNat + (0#32 : Word32).toNat := by decide

/-- Another memory that agrees on addresses 5 to 8 and differs at 0. -/
theorem witness_RangeReadsOnlyItsRange :
    ((engine 0#32 5#32 false false).mem.write 0 0x00#8).read 0 ≠ (engine 0#32 5#32 false false).mem.read 0 ∧
      ∀ a : Nat, 5 ≤ a → a < 5 + 4 →
        ((engine 0#32 5#32 false false).mem.write 0 0x00#8).read a = (engine 0#32 5#32 false false).mem.read a := by
  refine ⟨by decide, fun a h1 h2 => ?_⟩
  interval_cases a <;> decide

theorem witness_BytesRangesAndSplitsAgree :
    ([0x36#8, 0x37#8, 0x38#8, 0x39#8] : List Byte) =
      (List.range (4#32 : Word32).toNat).map (fun i =>
        memRead (engine 0#32 5#32 false false) ((engine 0#32 5#32 false false).ptr.toNat + i)) ∧
    (9#32 : Word32).toNat = ([4#32, 0#32, 5#32].map (BitVec.toNat (w := 32))).sum ∧
    (engine 0#32 0#32 false false).ptr.toNat + (9#32 : Word32).toNat ≤
      (engine 0#32 0#32 false false).inputSize.toNat := by decide

/-- A RANGE out of bounds meets every premise of the frame's clauses on CRC and PTR. -/
theorem witness_FrameOfEveryCommand :
    ∃ i : Instr, i ≠ .init ∧ (∀ v, i ≠ .load v) ∧ (∀ b, i ≠ .byte b) ∧ (∀ p, i ≠ .setptr p) ∧
      (∀ n, i = .range n → (engine 0#32 5#32 false false).inputSize.toNat <
        (engine 0#32 5#32 false false).ptr.toNat + n.toNat) ∧ i ≠ .rdcrc ∧ i ≠ .rdptr ∧ i ≠ .rdstat :=
  ⟨.range 5#32, by decide, by simp, by simp, by simp, by intro n h; cases h; decide, by decide, by decide, by decide⟩

theorem witness_OnlyTheHostWritesMemory :
    ∃ t, step (engine 0#32 0#32 false false) = .next t ∧
      ∀ a b, (engine 0#32 0#32 false false).host.head? ≠ some (.write a b) := ⟨_, rfl, by simp [engine, State.resetWith]⟩

theorem witness_RaiseFaultSetsOneBit : (1 : Nat) ≠ faultBit .ill ∧ (0 : Nat) ≠ faultBit .range := by decide

/-- A reset, and an illegal word with both bits clear. -/
theorem witness_FaultBitsAreSticky :
    (∃ s t, step s = .next t ∧ s.host.head? = some .reset) ∧
    ∃ s t w, step s = .next t ∧ s.host.head? = some (.present w) ∧ decode w = none ∧ s.status.ill = false :=
  ⟨⟨{ engine 0#32 0#32 true true with host := [.reset] }, _, rfl, rfl⟩,
    ⟨{ engine 0#32 0#32 false false with host := [.present 0x0000000000000000#64] }, _, 0x0000000000000000#64,
      rfl, rfl, by decide, rfl⟩⟩

theorem witness_AtMostOneFaultACommand : decode 0xFFFFFFFF00010005#64 = none := by decide

theorem witness_ResponseExactlyForReads :
    ∃ s t w, step s = .next t ∧ s.host.head? = some (.present w) ∧ decode w = some .rdptr :=
  ⟨{ engine 0#32 5#32 false false with host := [.present 0x0000000000000007#64] }, _, 0x0000000000000007#64,
    rfl, rfl, by decide⟩

theorem witness_ResetStep :
    ∃ s t, step s = .next t ∧ s.host.head? ≠ some .reset ∧ s.status.ill = true ∧ s.status.range = true :=
  ⟨engine 0#32 0#32 true true, _, rfl, by decide, rfl, rfl⟩

theorem witness_StepRunsTheDecodedCommand : decode 0x1234567800000002#64 = some (.load 0x12345678#32) := by decide

theorem witness_HostWriteStep :
    (engine 0#32 0#32 false false).wf = true ∧
      (8#32 : Word32).toNat < (engine 0#32 0#32 false false).inputSize.toNat ∧ (7 : Nat) ≠ (8#32 : Word32).toNat := by
  decide

/-- The host step that stops and the one just inside. -/
theorem witness_OnlyHostWritesOutsideStop :
    (9#32 : Word32) = (engine 0#32 0#32 false false).inputSize ∧
      HostStep.allowed 9 (.write 8#32 0x41#8) = true := by decide

theorem witness_AllowedHostNeverStops :
    State.hostAllowed { engine 0#32 0#32 false false with
      host := [.write 8#32 0x41#8, .present 0x0000000000000000#64, .reset] } = true := by decide

theorem witness_StepKeepsWellFormed :
    State.wf { engine 0#32 0#32 false false with host := [.write 8#32 0x00#8] } = true ∧
      ∃ t, step { engine 0#32 0#32 false false with host := [.write 8#32 0x00#8] } = .next t :=
  ⟨by decide, _, rfl⟩

theorem witness_ResetIsWellFormed : (engine 0#32 0#32 true true).wf = true := by decide

theorem witness_ReadAfterWrite : digits.wf = true ∧ (3 : Nat) ≠ 4 := by decide

theorem witness_CanonicalMemoryIsUnique :
    (Memory.write [(1, 0x31#8)] 4 0x32#8).wf = true ∧ (Memory.write [(4, 0x32#8)] 1 0x31#8).wf = true ∧
      ∀ a : Nat, (Memory.write [(1, 0x31#8)] 4 0x32#8).read a = (Memory.write [(4, 0x32#8)] 1 0x31#8).read a :=
  ⟨by decide, by decide, fun _ => rfl⟩

theorem witness_GzipTrailerLayout : (gzipTrailer 0xCBF43926#32 9)[3]? = some 0xCB#8 ∧
    (gzipTrailer 0xCBF43926#32 9)[4]? = some 0x09#8 := by decide

/-- A session that is not BAD and one that is; a field that matches and one that does not. -/
theorem witness_HeaderCrcCheck :
    (sessionStart .gzip 0#32).bad = false ∧ (sessionStart .gzip 0#32).wrap = .gzip ∧
      (sessionStart .zlib 0#32).bad = false ∧ (sessionStart .zlib 0#32).wrap ≠ .gzip ∧
      ({ sessionStart .gzip 0#32 with bad := true } : Session).bad = true ∧
      ([0x00#8, 0x00#8] : List Byte) = headerCrcField true [] ∧
      ([0x01#8, 0x00#8] : List Byte) ≠ headerCrcField true [] := by decide

/-- S1: the last CRC byte of the trailer of "abc" flipped. -/
theorem witness_TrailerCorruptionIsDetected :
    (gzipTrailer (trailerCrc [0x61#8, 0x62#8, 0x63#8]) 3)[3]? = some 0x35#8 ∧ (0x35#8 : Byte) ≠ 0x34#8 := by
  decide +kernel

theorem witness_SessionFeedingIgnoresChunking :
    (sessionStart .gzip 0#32).wrap = .gzip ∧ (sessionStart .gzip 0#32).bad = false := by decide

/-- The trailer of the empty data, and another. -/
theorem witness_SessionTrailerCheck :
    sessionTrailer (sessionStart .gzip 0#32) = some [0#8, 0#8, 0#8, 0#8, 0#8, 0#8, 0#8, 0#8] ∧
      sessionTrailer (sessionStart .gzip 0#32) ≠ some [1#8, 0#8, 0#8, 0#8, 0#8, 0#8, 0#8, 0#8] := by decide

/-- A raw and a zlib session; a trailer that a gzip session would refuse. -/
theorem witness_SessionWithoutGzipLeavesEngine :
    (sessionStart .raw 0#32).wrap ≠ .gzip ∧ (sessionStart .raw 0#32).wrap = .raw ∧
      (sessionStart .zlib 0#32).wrap ≠ .gzip ∧ (sessionStart .zlib 0#32).wrap = .zlib ∧
      (sessionStart .zlib 0#32).bad = false ∧
      sessionCheck [1#8] (sessionStart .zlib 0#32) = (.noCrcCheck, sessionStart .zlib 0#32) := by
  refine ⟨by decide, by decide, by decide, by decide, by decide, rfl⟩

/-- Two instances; the second goes on, and one with a bad host write stops. -/
theorem witness_InstancesAreIndependent :
    (∃ s t, (Platform.resetWith 1#32 [2#32]).engines[1]? = some s ∧ step s = .next t) ∧
    ∃ (p : Platform) (s : State), p.engines[0]? = some s ∧ step s = .fault .hostWriteOutsideInput :=
  ⟨⟨_, _, rfl, rfl⟩,
    ⟨⟨[{ State.resetWith 0#32 [] with host := [.write 0#32 1#8] }], by simp⟩, _, rfl, rfl⟩⟩

/-- The first of one instance, and the last of two. -/
theorem witness_PlatformHasAtLeastOneInstance :
    ((9#32 : Word32) :: [])[0]? = some 9#32 ∧ ((9#32 : Word32) :: [4#32])[1]? = some 4#32 := by decide

end Sys2Proof.Tests
end

section
/-! The number of instances of a platform, and the instances of a platform after reset. -/

namespace Sys2Proof.Machine

theorem nEngines_pos (p : Platform) : 0 < p.nEngines :=
  List.length_pos_iff.mpr p.nonempty

@[simp] theorem resetWith_engines (first : Word32) (others : List Word32) :
    (Platform.resetWith first others).engines =
      (first :: others).map fun size => State.resetWith size [] := rfl

@[simp] theorem resetWith_nEngines (first : Word32) (others : List Word32) :
    (Platform.resetWith first others).nEngines = others.length + 1 := by
  simp [Platform.nEngines]

/-- Instance `k` after reset is in the reset state with the `k`-th size (R105). -/
theorem resetWith_getElem? (first : Word32) (others : List Word32) (k : Nat) (size : Word32)
    (h : (first :: others)[k]? = some size) :
    (Platform.resetWith first others).engines[k]? = some (State.resetWith size []) := by
  rw [resetWith_engines, List.getElem?_map, h, Option.map_some]

/-- Settles O53: the list of instances carries the proof that it is not empty (R7), and reset maps each size to its
own reset state (R105). -/
theorem platformHasAtLeastOneInstance : Obligations.PlatformHasAtLeastOneInstance := by
  refine ⟨fun p => ⟨nEngines_pos p, ?_⟩, fun first others =>
    ⟨resetWith_nEngines first others, resetWith_getElem? first others⟩⟩
  simpa [Platform.nEngines] using nEngines_pos p

end Sys2Proof.Machine
end

section
/-! What a transition does to input memory and INPUT_SIZE, and the well-formedness that follows (R26, R31, R41). -/

namespace Sys2Proof.Machine

theorem state_wf_iff (s : State) :
    s.wf = true ↔ s.mem.wf = true ∧ s.mem.within s.inputSize.toNat = true := by
  simp [State.wf]

/-- A transition keeps INPUT_SIZE, and input memory too unless it is the host's write of one byte below INPUT_SIZE
(R26, R40). -/
theorem step_inputSize_mem_cases {s t : State} (h : step s = .next t) :
    t.inputSize = s.inputSize ∧
    (t.mem = s.mem ∨
      ∃ a b rest, s.host = .write a b :: rest ∧ a.toNat < s.inputSize.toNat ∧
        t.mem = s.mem.write a.toNat b) := by
  rcases step_cases s t h with ⟨_, rfl⟩ | ⟨a, b, rest, hhost, hlt, rfl⟩ | ⟨rest, _, rfl⟩ |
    ⟨w, rest, i, _, _, hexec⟩ | ⟨w, rest, _, _, rfl⟩
  · exact ⟨rfl, .inl rfl⟩
  · exact ⟨rfl, .inr ⟨a, b, rest, hhost, hlt, rfl⟩⟩
  · exact ⟨rfl, .inl rfl⟩
  · obtain ⟨u, hu, hmem, hsize, _⟩ := exec_keeps_host_owned i { s with host := rest }
    obtain rfl := Host.Outcome.next.inj (hu.symm.trans hexec)
    exact ⟨hsize, .inl hmem⟩
  · exact ⟨rfl, .inl rfl⟩

/-- Settles O42: memory is as it was, or one write below INPUT_SIZE later, which keeps both parts of the invariant. -/
theorem stepKeepsWellFormed : Obligations.StepKeepsWellFormed := by
  intro s t hwf h
  rw [state_wf_iff] at hwf ⊢
  obtain ⟨hcanonical, hwithin⟩ := hwf
  obtain ⟨hsize, hmem | ⟨a, b, rest, _, hlt, hmem⟩⟩ := step_inputSize_mem_cases h <;> rw [hsize, hmem]
  · exact ⟨hcanonical, hwithin⟩
  · exact ⟨memory_write_wf s.mem a.toNat b hcanonical, memory_write_within _ s.mem a.toNat b hlt hwithin⟩

/-- Settles O30: the one transition that does not keep input memory has a write at the head of the host's moves. -/
theorem onlyTheHostWritesMemory : Obligations.OnlyTheHostWritesMemory := by
  intro s t h
  obtain ⟨hsize, hcases⟩ := step_inputSize_mem_cases h
  refine ⟨hsize, fun hnowrite => ?_⟩
  have hmem : t.mem = s.mem := by
    rcases hcases with hmem | ⟨a, b, rest, hhost, _, _⟩
    · exact hmem
    · exact absurd (by simp [hhost]) (hnowrite a b)
  exact ⟨hmem, fun a => by simp only [memRead, hmem]⟩

end Sys2Proof.Machine
end

section
/-! The frame of a command, one lemma for each register: which commands change it (R16, R19, R20, R48). -/

namespace Sys2Proof.Machine

theorem exec_range_of_outOfBounds {n : Word32} {s : State}
    (h : s.inputSize.toNat < s.ptr.toNat + n.toNat) :
    exec (.range n) s = .next { s with status := ⟨s.status.ill, true⟩, response := none } := by
  rcases execRange_cases n s with ⟨hfits, _⟩ | ⟨_, he⟩
  · omega
  · exact he

variable {i : Instr} {s t : State}

/-- Only INIT, LOAD, BYTE and a RANGE within bounds change CRC (R16). -/
theorem exec_crc_frame (h : exec i s = .next t) (hinit : i ≠ .init) (hload : ∀ v, i ≠ .load v)
    (hbyte : ∀ b, i ≠ .byte b) (hrange : ∀ n, i = .range n → s.inputSize.toNat < s.ptr.toNat + n.toNat) :
    t.crc = s.crc := by
  cases i with
  | init => exact absurd rfl hinit
  | load v => exact absurd rfl (hload v)
  | byte b => exact absurd rfl (hbyte b)
  | range n =>
    obtain rfl := Host.Outcome.next.inj ((exec_range_of_outOfBounds (hrange n rfl)).symm.trans h)
    rfl
  | setptr | rdcrc | rdptr | rdstat => obtain rfl := Host.Outcome.next.inj h; rfl

/-- Only SETPTR and a RANGE within bounds change PTR (R19). -/
theorem exec_ptr_frame (h : exec i s = .next t) (hsetptr : ∀ p, i ≠ .setptr p)
    (hrange : ∀ n, i = .range n → s.inputSize.toNat < s.ptr.toNat + n.toNat) : t.ptr = s.ptr := by
  cases i with
  | setptr p => exact absurd rfl (hsetptr p)
  | range n =>
    obtain rfl := Host.Outcome.next.inj ((exec_range_of_outOfBounds (hrange n rfl)).symm.trans h)
    rfl
  | init | load | byte | rdcrc | rdptr | rdstat => obtain rfl := Host.Outcome.next.inj h; rfl

/-- A command leaves STATUS as it is, unless it is a RANGE out of bounds, which sets its RANGE bit (R20, R98). -/
theorem exec_status_cases (h : exec i s = .next t) :
    ((∀ n, i = .range n → s.ptr.toNat + n.toNat ≤ s.inputSize.toNat) ∧ t.status = s.status) ∨
    ∃ n, i = .range n ∧ s.inputSize.toNat < s.ptr.toNat + n.toNat ∧ t.status = ⟨s.status.ill, true⟩ := by
  cases i with
  | range n =>
    rcases execRange_cases n s with ⟨hfits, he⟩ | ⟨hout, he⟩ <;>
      obtain rfl := Host.Outcome.next.inj (he.symm.trans h)
    · refine .inl ⟨?_, rfl⟩
      rintro _ ⟨⟩
      exact hfits
    · exact .inr ⟨n, rfl, hout, rfl⟩
  | init | load | byte | setptr | rdcrc | rdptr | rdstat =>
    obtain rfl := Host.Outcome.next.inj h
    exact .inl ⟨nofun, rfl⟩

/-- Only the three read commands give a response (R48). -/
theorem exec_response_none (h : exec i s = .next t) (hcrc : i ≠ .rdcrc) (hptr : i ≠ .rdptr)
    (hstat : i ≠ .rdstat) : t.response = none := by
  cases i with
  | rdcrc => exact absurd rfl hcrc
  | rdptr => exact absurd rfl hptr
  | rdstat => exact absurd rfl hstat
  | range n =>
    rcases execRange_cases n s with ⟨_, he⟩ | ⟨_, he⟩ <;>
      obtain rfl := Host.Outcome.next.inj (he.symm.trans h) <;> rfl
  | init | load | byte | setptr => obtain rfl := Host.Outcome.next.inj h; rfl

/-- No command changes ILL: every one of them is legal (R97). -/
theorem exec_status_ill (h : exec i s = .next t) : t.status.ill = s.status.ill := by
  rcases exec_status_cases h with ⟨_, hst⟩ | ⟨n, _, _, hst⟩ <;> rw [hst]

/-- After a command the RANGE bit is set exactly when it was, or the command is a RANGE out of bounds (R22, R98). -/
theorem exec_status_range_iff (h : exec i s = .next t) :
    t.status.range = true ↔ s.status.range = true ∨
      ∃ n, i = .range n ∧ s.inputSize.toNat < s.ptr.toNat + n.toNat := by
  rcases exec_status_cases h with ⟨hfits, hst⟩ | ⟨n, hi, hout, hst⟩ <;> rw [hst]
  · refine ⟨.inl, ?_⟩
    rintro (hs | ⟨n, hi, hout⟩)
    · exact hs
    · exact absurd (hfits n hi) (Nat.not_le_of_lt hout)
  · exact iff_of_true rfl (.inr ⟨n, hi, hout⟩)

end Sys2Proof.Machine
end

section
/-! What every command leaves unchanged, and when a transition sets a fault bit. -/

namespace Sys2Proof.Machine

/-- Settles O29, from what every command keeps of the host's data and the frame of each register. -/
theorem frameOfEveryCommand : Obligations.FrameOfEveryCommand := by
  intro i s
  obtain ⟨t, h, hmem, hsize, hhost⟩ := exec_keeps_host_owned i s
  refine ⟨t, h, fun a => by simp only [memRead, hmem], hmem, hsize, hhost, exec_crc_frame h, exec_ptr_frame h,
    fun hfits => ?_, exec_response_none h⟩
  rcases exec_status_cases h with ⟨_, hst⟩ | ⟨n, hi, hout, _⟩
  · exact hst
  · exact absurd (hfits n hi) (Nat.not_le_of_lt hout)

/-- Settles O32, by the kinds of transition: reset clears both bits, an illegal word sets ILL, a command can set
RANGE only, and a host write or no move at all sets neither. -/
theorem faultBitsAreSticky : Obligations.FaultBitsAreSticky := by
  intro s t h
  rcases step_cases s t h with ⟨hhost, rfl⟩ | ⟨a, b, rest, hhost, _, rfl⟩ | ⟨rest, hhost, rfl⟩ |
    ⟨w, rest, i, hhost, hdecode, hexec⟩ | ⟨w, rest, hhost, hdecode, rfl⟩
  · simp [hhost]
  · simp [hhost]
  · simp [hhost, assertReset_eq]
  · simp [hhost, hdecode, exec_status_ill hexec, exec_status_range_iff hexec]
  · simp [hhost, hdecode, raiseFault_eq, setFault]

end Sys2Proof.Machine
end

section
/-! One engine's transition and the other engines of its platform (R30, R105). -/

namespace Sys2Proof.Machine

theorem withEngine_getElem?_self {p : Platform} {k : Nat} {s : State} (t : State)
    (h : p.engines[k]? = some s) : (p.withEngine k t).engines[k]? = some t := by
  obtain ⟨hk, _⟩ := List.getElem?_eq_some_iff.mp h
  simp [hk]

theorem withEngine_getElem?_ne (p : Platform) {j k : Nat} (t : State) (h : j ≠ k) :
    (p.withEngine k t).engines[j]? = p.engines[j]? := by
  simp [h.symm]

/-- Settles O52: the platform's transition is the step of engine `k`, which replaces that engine's state and no
other. -/
theorem instancesAreIndependent : Obligations.InstancesAreIndependent := by
  intro p k s hk
  rcases platformStep_of_getElem? p k s hk with ⟨u, hs, hp⟩ | ⟨f, hs, hp⟩ | ⟨f, hs, _⟩
  · refine ⟨fun t ht => ?_, fun r hr => nomatch hs.symm.trans hr⟩
    obtain rfl := Host.Outcome.next.inj (hs.symm.trans ht)
    exact ⟨_, hp, withEngine_nEngines p k u, withEngine_getElem?_self u hk,
      fun j hj => withEngine_getElem?_ne p u hj⟩
  · refine ⟨fun t ht => (nomatch hs.symm.trans ht), fun r hr => ?_⟩
    obtain rfl := Host.Outcome.fault.inj (hs.symm.trans hr)
    exact hp
  · exact ⟨fun t ht => (nomatch hs.symm.trans ht), fun r hr => (nomatch hs.symm.trans hr)⟩

end Sys2Proof.Machine
end

section
/-! When a transition goes on, what is left of the host's moves after it, and a run under a host that keeps its
duty (R40, R99). -/

namespace Sys2Proof.Machine

theorem step_of_idle {s : State} (h : s.host = []) : step s = idle s := by
  simp only [step, h]

theorem step_of_write {s : State} {a : Word32} {b : Byte} {rest : List HostStep}
    (h : s.host = .write a b :: rest) : step s = hostWrite a b (s.withHost rest) := by
  simp only [step, h]

theorem step_of_reset {s : State} {rest : List HostStep} (h : s.host = .reset :: rest) :
    step s = .next (assertReset (s.withHost rest)) := by
  simp only [step, h]

/-- Presenting a word always goes on: a legal command answers a next state, an illegal word only sets ILL. -/
theorem step_of_present {s : State} {w : Word64} {rest : List HostStep} (h : s.host = .present w :: rest) :
    ∃ t, step s = .next t := by
  cases hd : decode w with
  | none => exact ⟨raiseFault .ill (s.withHost rest), by simp only [step, h, hd]; rfl⟩
  | some i =>
    obtain ⟨t, ht, _⟩ := exec_keeps_host_owned i (s.withHost rest)
    exact ⟨t, by simp only [step, h, hd, ht]⟩

/-- A transition goes on unless it is a host write at or above INPUT_SIZE. -/
theorem step_goes_on {s : State}
    (hin : ∀ a b rest, s.host = .write a b :: rest → a.toNat < s.inputSize.toNat) : ∃ t, step s = .next t := by
  match hhost : s.host with
  | [] => exact ⟨_, step_of_idle hhost⟩
  | .reset :: rest => exact ⟨_, step_of_reset hhost⟩
  | .present w :: rest => exact step_of_present hhost
  | .write a b :: rest =>
    rw [step_of_write hhost]
    rcases hostWrite_cases a b (s.withHost rest) with ⟨_, he⟩ | ⟨hout, _⟩
    · exact ⟨_, he⟩
    · exact absurd (hin a b rest hhost) (Nat.not_lt_of_le hout)

theorem step_of_write_outside {s : State} {a : Word32} {b : Byte} {rest : List HostStep}
    (hhost : s.host = .write a b :: rest) (hout : s.inputSize.toNat ≤ a.toNat) :
    step s = .fault .hostWriteOutsideInput := by
  rw [step_of_write hhost]
  rcases hostWrite_cases a b (s.withHost rest) with ⟨hin, _⟩ | ⟨_, he⟩
  · exact absurd hin (Nat.not_lt_of_le hout)
  · exact he

/-- A transition takes the first of the host's moves and leaves the others. -/
theorem step_host {s t : State} (h : step s = .next t) : t.host = s.host.tail := by
  rcases step_cases s t h with ⟨hhost, rfl⟩ | ⟨a, b, rest, hhost, _, rfl⟩ | ⟨rest, hhost, rfl⟩ |
    ⟨w, rest, i, hhost, _, hexec⟩ | ⟨w, rest, hhost, _, rfl⟩ <;> rw [hhost]
  · rfl
  · rfl
  · rfl
  · obtain ⟨u, hu, _, _, hkeep⟩ := exec_keeps_host_owned i { s with host := rest }
    obtain rfl := Host.Outcome.next.inj (hu.symm.trans hexec)
    exact hkeep
  · rfl

theorem hostAllowed_iff (s : State) :
    s.hostAllowed = true ↔ ∀ m ∈ s.host, HostStep.allowed s.inputSize.toNat m = true := by
  simp [State.hostAllowed]

/-- A host that keeps its duty writes below INPUT_SIZE. -/
theorem write_lt_of_hostAllowed {s : State} {a : Word32} {b : Byte} {rest : List HostStep}
    (hs : s.hostAllowed = true) (hhost : s.host = .write a b :: rest) : a.toNat < s.inputSize.toNat := by
  have hallowed := (hostAllowed_iff s).mp hs (.write a b) (by simp [hhost])
  simpa [HostStep.allowed] using hallowed

theorem step_keeps_hostAllowed {s t : State} (hs : s.hostAllowed = true) (h : step s = .next t) :
    t.hostAllowed = true := by
  rw [hostAllowed_iff] at hs ⊢
  rw [step_host h, (step_inputSize_mem_cases h).1]
  exact fun m hm => hs m (List.mem_of_mem_tail hm)

theorem run_zero (s : State) : Host.Core.run core 0 s = .next s := rfl

theorem run_succ_of_step {s t : State} (k : Nat) (h : step s = .next t) :
    Host.Core.run core (k + 1) s = Host.Core.run core k t := by
  have hcore : core.step s = .next t := h
  simp only [Host.Core.run, hcore]

/-- Settles O41, by induction on the number of steps: an allowed host's first move lets the machine go on, and the
moves that are left are allowed for the same INPUT_SIZE. -/
theorem allowedHostNeverStops : Obligations.AllowedHostNeverStops := by
  intro k
  induction k with
  | zero => exact fun s hs => ⟨s, run_zero s, hs, rfl⟩
  | succ k ih =>
    intro s hs
    obtain ⟨u, hu⟩ := step_goes_on fun _ _ _ => write_lt_of_hostAllowed hs
    obtain ⟨t, hrun, ht, hsize⟩ := ih u (step_keeps_hostAllowed hs hu)
    exact ⟨t, (run_succ_of_step k hu).trans hrun, ht, hsize.trans (step_inputSize_mem_cases hu).1⟩

/-- Settles O39, by whether the host's first move is a write at or above INPUT_SIZE. -/
theorem onlyHostWritesOutsideStop : Obligations.OnlyHostWritesOutsideStop := by
  intro s
  by_cases h : ∃ a b rest, s.host = .write a b :: rest ∧ s.inputSize.toNat ≤ a.toNat
  · obtain ⟨a, b, rest, hhost, hout⟩ := h
    exact .inl ⟨⟨a, b, rest, hhost, hout⟩, step_of_write_outside hhost hout⟩
  · refine .inr ⟨h, step_goes_on fun a b rest hhost => ?_⟩
    exact Nat.lt_of_not_le fun hout => h ⟨a, b, rest, hhost, hout⟩

end Sys2Proof.Machine
end

section
/-! Reading input memory: after a write, and as what determines a canonical memory (R31, R33, R41). -/

namespace Sys2Proof.Machine

@[simp] theorem memory_read_cons_self (k : Nat) (v : Byte) (rest : Memory) :
    Memory.read ((k, v) :: rest) k = v := if_pos rfl

theorem memory_read_cons_ne {k a : Nat} (v : Byte) (rest : Memory) (h : k ≠ a) :
    Memory.read ((k, v) :: rest) a = rest.read a := if_neg h

/-- A read gives the byte just written there. A write of `unwrittenByte` leaves no entry to read, and the canonical
form has no other entry at that address. -/
theorem memory_read_write_self (m : Memory) (a : Nat) (b : Byte) (hwf : m.wf = true) :
    (m.write a b).read a = b := by
  induction m with
  | nil => by_cases hb : b = unwrittenByte <;> simp [Memory.write, hb]
  | cons d rest ih =>
    obtain ⟨k, v⟩ := d
    obtain ⟨_, hlt, hrest⟩ := (memory_wf_cons k v rest).mp hwf
    simp only [Memory.write]
    split_ifs with hak hb hk hb
    · rw [hb, memory_read_cons_ne v rest (Nat.ne_of_gt hak)]
      exact memory_read_below rest a fun c hc => Nat.lt_trans hak (hlt c hc)
    · exact memory_read_cons_self a b _
    · rw [hb, hk]
      exact memory_read_below rest k hlt
    · exact memory_read_cons_self a b rest
    · rw [memory_read_cons_ne v _ (Ne.symm hk)]
      exact ih hrest

/-- A write leaves what every other address reads. -/
theorem memory_read_write_ne (m : Memory) {a c : Nat} (b : Byte) (hc : a ≠ c) :
    (m.write a b).read c = m.read c := by
  induction m with
  | nil => by_cases hb : b = unwrittenByte <;> simp [Memory.write, hb, memory_read_cons_ne b [] hc]
  | cons d rest ih =>
    obtain ⟨k, v⟩ := d
    simp only [Memory.write]
    split_ifs with hak hb hk hb
    · rfl
    · exact memory_read_cons_ne b _ hc
    · exact (memory_read_cons_ne v rest (hk ▸ hc)).symm
    · rw [memory_read_cons_ne b rest hc, memory_read_cons_ne v rest (hk ▸ hc)]
    · simp only [memory_read_cons, ih]

/-- Settles O44, by whether the address read is the one written. -/
theorem readAfterWrite : Obligations.ReadAfterWrite := by
  intro m a c b hwf
  by_cases hc : c = a
  · rw [if_pos hc, hc, memory_read_write_self m a b hwf]
  · rw [if_neg hc, memory_read_write_ne m b (Ne.symm hc)]

/-- A canonical memory with an entry reads differently from the empty one at that entry. -/
theorem memory_read_head_ne {k : Nat} {v : Byte} {rest : Memory} (hwf : Memory.wf ((k, v) :: rest) = true) :
    Memory.read ((k, v) :: rest) k ≠ unwrittenByte := by
  rw [memory_read_cons_self]
  exact ((memory_wf_cons k v rest).mp hwf).1

/-- Of two canonical memories that read the same at the first address of one, the other does not begin above it. -/
theorem memory_head_le {k k' : Nat} {v v' : Byte} {rest rest' : Memory}
    (hwf : Memory.wf ((k, v) :: rest) = true) (hwf' : Memory.wf ((k', v') :: rest') = true)
    (hread : Memory.read ((k, v) :: rest) k = Memory.read ((k', v') :: rest') k) : k' ≤ k := by
  obtain ⟨_, hlt', _⟩ := (memory_wf_cons k' v' rest').mp hwf'
  by_contra hk
  have hk : k < k' := Nat.lt_of_not_le hk
  have hbelow : Memory.read ((k', v') :: rest') k = unwrittenByte := by
    rw [memory_read_cons_ne v' rest' (Nat.ne_of_gt hk)]
    exact memory_read_below rest' k fun c hc => Nat.lt_trans hk (hlt' c hc)
  exact memory_read_head_ne hwf (hread.trans hbelow)

/-- Settles O45, by induction on both memories: reading fixes the first address, since below it all is unwritten,
then the first byte, then the entries after it. -/
theorem canonicalMemoryIsUnique : Obligations.CanonicalMemoryIsUnique := by
  intro m
  induction m with
  | nil =>
    rintro (_ | ⟨⟨k', v'⟩, rest'⟩) _ hwf' hread
    · rfl
    · exact absurd (hread k').symm (memory_read_head_ne hwf')
  | cons c rest ih =>
    obtain ⟨k, v⟩ := c
    rintro (_ | ⟨⟨k', v'⟩, rest'⟩) hwf hwf' hread
    · exact absurd (hread k) (memory_read_head_ne hwf)
    · obtain rfl : k = k' :=
        Nat.le_antisymm (memory_head_le hwf' hwf (hread k').symm) (memory_head_le hwf hwf' (hread k))
      obtain rfl : v = v' := by simpa using hread k
      obtain ⟨_, hlt, hrest⟩ := (memory_wf_cons k v rest).mp hwf
      obtain ⟨_, hlt', hrest'⟩ := (memory_wf_cons k v rest').mp hwf'
      rw [ih rest' hrest hrest' fun a => ?_]
      by_cases ha : k = a
      · subst ha
        rw [memory_read_below rest k hlt, memory_read_below rest' k hlt']
      · simpa only [memory_read_cons_ne _ _ ha] using hread a

/-- Settles O38: below INPUT_SIZE the step is one write to memory, and reading after a write gives the clauses on
the bytes. -/
theorem hostWriteStep : Obligations.HostWriteStep := by
  intro s a b rest hwf ha
  obtain ⟨hcanonical, _⟩ := (state_wf_iff s).mp hwf
  rcases hostWrite_cases a b (s.withHost rest) with ⟨_, he⟩ | ⟨hout, _⟩
  · exact ⟨_, (step_of_write rfl).trans he, memory_read_write_self s.mem a.toNat b hcanonical,
      fun c hc => memory_read_write_ne s.mem b (Ne.symm hc), rfl, rfl, rfl, rfl, rfl⟩
  · exact absurd ha (Nat.not_lt_of_le hout)

end Sys2Proof.Machine
end

section
/-! The bytes of a range under another memory (R33, R85, R86). -/

namespace Sys2Proof.Machine

theorem exec_range_of_inBounds {n : Word32} {s : State} (h : s.ptr.toNat + n.toNat ≤ s.inputSize.toNat) :
    exec (.range n) s = .next { s with
      crc := crcUpdate s.crc (rangeBytes n s), ptr := s.ptr + n, response := none } := by
  rcases execRange_cases n s with ⟨_, he⟩ | ⟨hout, _⟩
  · exact he
  · exact absurd h (Nat.not_le_of_lt hout)

theorem rangeBytes_congr_mem {n : Word32} {s : State} {m : Memory}
    (h : ∀ a : Nat, s.ptr.toNat ≤ a → a < s.ptr.toNat + n.toNat → m.read a = s.mem.read a) :
    rangeBytes n { s with mem := m } = rangeBytes n s :=
  readBytes_congr s.mem m s.ptr.toNat n.toNat h

/-- Settles O25: the bound check reads no memory; past it RANGE uses memory only for the bytes of its range. -/
theorem rangeReadsOnlyItsRange : Obligations.RangeReadsOnlyItsRange := by
  intro n s m hagree
  by_cases hfits : s.ptr.toNat + n.toNat ≤ s.inputSize.toNat
  · refine ⟨_, exec_range_of_inBounds hfits, ?_⟩
    rw [exec_range_of_inBounds (s := { s with mem := m }) hfits, rangeBytes_congr_mem (hagree hfits)]
  · have hout := Nat.lt_of_not_le hfits
    exact ⟨_, exec_range_of_outOfBounds hout, exec_range_of_outOfBounds (s := { s with mem := m }) hout⟩

end Sys2Proof.Machine
end

section
/-! Words and their bytes on a byte-wide bus (R36). -/

namespace Sys2Proof

theorem busBytes_getElem? (w : Word64) {k : Nat} (hk : k < 8) :
    (busBytes w)[k]? = some (w.extractLsb' (8 * k) 8) := by
  interval_cases k <;> rfl

theorem le32_getElem? (v : Word32) {k : Nat} (hk : k < 4) :
    (le32 v)[k]? = some (v.extractLsb' (8 * k) 8) := by
  interval_cases k <;> rfl

theorem decodeBytes_busBytes (w : Word64) (rest : List Byte) :
    decodeBytes (busBytes w ++ rest) = some (decode w, rest) := by
  simp only [decodeBytes, busWord_busBytes, Option.map_some]

/-- Settles O5: byte by byte for the two word sizes, and since the bus gives a word back from its bytes. -/
theorem busOrderIsLittleEndian : Obligations.BusOrderIsLittleEndian :=
  ⟨fun w _ hk => busBytes_getElem? w hk, fun v _ hk => le32_getElem? v hk, decodeBytes_busBytes⟩

end Sys2Proof
end

section
/-! Decoding and encoding, on the fields of a word (R47, R49 to R53). -/

namespace Sys2Proof

theorem decodeFields_encodeFields (i : Instr) : decodeFields (encodeFields i) = some i := by
  cases i <;> rfl

/-- The fields that select a command are the fields of its word: in the branch of each opcode the operand is copied
from its field, and the other operand fields are tested to be zero. -/
theorem eq_encodeFields_of_decodeFields {f : Fields} {i : Instr} (h : decodeFields f = some i) :
    f = encodeFields i := by
  obtain ⟨op, b8, rsv, imm32⟩ := f
  simp only [decodeFields, ite_eq_iff, reduceCtorEq, and_false, or_false, false_or, Option.some.injEq, ne_eq,
    not_not] at h
  obtain ⟨rfl, ⟨rfl, ⟨rfl, rfl⟩, rfl⟩ | ⟨-, h⟩⟩ := h
  · rfl
  obtain ⟨rfl, rfl, rfl⟩ | ⟨-, h⟩ := h
  · rfl
  obtain ⟨rfl, rfl, rfl⟩ | ⟨-, h⟩ := h
  · rfl
  obtain ⟨rfl, rfl, rfl⟩ | ⟨-, h⟩ := h
  · rfl
  obtain ⟨rfl, rfl, rfl⟩ | ⟨-, h⟩ := h
  · rfl
  obtain ⟨rfl, ⟨rfl, rfl⟩, rfl⟩ | ⟨-, h⟩ := h
  · rfl
  obtain ⟨rfl, ⟨rfl, rfl⟩, rfl⟩ | ⟨-, rfl, ⟨rfl, rfl⟩, rfl⟩ := h
  · rfl
  · rfl

/-- A word decodes to a command exactly when its fields are that command's. -/
theorem decode_eq_some_iff_fields (w : Word64) (i : Instr) : decode w = some i ↔ fieldsOf w = encodeFields i :=
  ⟨eq_encodeFields_of_decodeFields, fun h => (congrArg decodeFields h).trans (decodeFields_encodeFields i)⟩

/-- Settles O1: a command's fields select that command and no other fields do, and a word is laid out from its
fields in one way. -/
theorem decodeIsInverseOfEncode : Obligations.DecodeIsInverseOfEncode := fun w i =>
  (decode_eq_some_iff_fields w i).trans (eq_packFields_iff w (encodeFields i)).symm

@[simp] theorem decode_encode (i : Instr) : decode (encode i) = some i :=
  (decodeIsInverseOfEncode (encode i) i).mpr rfl

/-- Settles O4: each legal word is the encoding of its command, and the decoder finds no command in the other two. -/
theorem writtenOutWordsDecode : Obligations.WrittenOutWordsDecode := by
  unfold Obligations.WrittenOutWordsDecode
  simp only [decodeIsInverseOfEncode _ _]
  decide

end Sys2Proof
end

section
/-! Legal fields, and the rows of the opcode map as tests on fields (R54 to R57). -/

namespace Sys2Proof

section
variable {f : Fields}

/-- Without an operand, both operand fields must be zero (R56). -/
theorem wf_iff_of_format_n (hop : formatOf f.op = some .n) :
    f.wf = true ↔ f.b8 = 0#8 ∧ f.rsv = 0#16 ∧ f.imm32 = 0#32 := by
  simp [Fields.wf, Fields.opcodeLegal, Fields.reservedZero, Fields.unusedZero, hop, and_left_comm]

/-- With a byte operand, the word operand field must be zero (R56). -/
theorem wf_iff_of_format_b (hop : formatOf f.op = some .b) :
    f.wf = true ↔ f.rsv = 0#16 ∧ f.imm32 = 0#32 := by
  simp [Fields.wf, Fields.opcodeLegal, Fields.reservedZero, Fields.unusedZero, hop]

/-- With a word operand, the byte operand field must be zero (R56). -/
theorem wf_iff_of_format_i (hop : formatOf f.op = some .i) :
    f.wf = true ↔ f.b8 = 0#8 ∧ f.rsv = 0#16 := by
  simp [Fields.wf, Fields.opcodeLegal, Fields.reservedZero, Fields.unusedZero, hop, and_comm]

theorem op_cases_of_wf (h : f.wf = true) :
    f.op = 0x01#8 ∨ f.op = 0x02#8 ∨ f.op = 0x03#8 ∨ f.op = 0x04#8 ∨ f.op = 0x05#8 ∨ f.op = 0x06#8 ∨
      f.op = 0x07#8 ∨ f.op = 0x08#8 := by
  by_contra hno
  simp only [not_or] at hno
  simp [Fields.wf, Fields.opcodeLegal, formatOf, hno] at h

end

/-- Well-formed fields are those of the command with their opcode, which takes its operand from them. -/
theorem exists_encodeFields_of_wf {f : Fields} (h : f.wf = true) : ∃ i, f = encodeFields i := by
  have hop := op_cases_of_wf h
  obtain ⟨op, b8, rsv, imm32⟩ := f
  rcases hop with rfl | rfl | rfl | rfl | rfl | rfl | rfl | rfl
  · obtain ⟨rfl, rfl, rfl⟩ := (wf_iff_of_format_n rfl).mp h
    exact ⟨.init, rfl⟩
  · obtain ⟨rfl, rfl⟩ := (wf_iff_of_format_i rfl).mp h
    exact ⟨.load imm32, rfl⟩
  · obtain ⟨rfl, rfl⟩ := (wf_iff_of_format_b rfl).mp h
    exact ⟨.byte b8, rfl⟩
  · obtain ⟨rfl, rfl⟩ := (wf_iff_of_format_i rfl).mp h
    exact ⟨.setptr imm32, rfl⟩
  · obtain ⟨rfl, rfl⟩ := (wf_iff_of_format_i rfl).mp h
    exact ⟨.range imm32, rfl⟩
  · obtain ⟨rfl, rfl, rfl⟩ := (wf_iff_of_format_n rfl).mp h
    exact ⟨.rdcrc, rfl⟩
  · obtain ⟨rfl, rfl, rfl⟩ := (wf_iff_of_format_n rfl).mp h
    exact ⟨.rdptr, rfl⟩
  · obtain ⟨rfl, rfl, rfl⟩ := (wf_iff_of_format_n rfl).mp h
    exact ⟨.rdstat, rfl⟩

theorem encodeFields_wf (i : Instr) : (encodeFields i).wf = true := by
  cases i <;> rfl

/-- A word decodes to a command of an opcode exactly when its fields are well formed and carry that opcode. -/
theorem exists_decode_opcodeOf_iff (w : Word64) (op : BitVec 8) :
    (∃ i, decode w = some i ∧ opcodeOf i = op) ↔ (fieldsOf w).wf = true ∧ (fieldsOf w).op = op := by
  simp only [decode_eq_some_iff_fields]
  constructor
  · rintro ⟨i, hi, rfl⟩
    exact hi ▸ ⟨encodeFields_wf i, rfl⟩
  · rintro ⟨hwf, rfl⟩
    obtain ⟨i, hi⟩ := exists_encodeFields_of_wf hwf
    exact ⟨i, hi, hi ▸ rfl⟩

/-- The AND of two words, on their fields. -/
def Fields.and (f g : Fields) : Fields := ⟨f.op &&& g.op, f.b8 &&& g.b8, f.rsv &&& g.rsv, f.imm32 &&& g.imm32⟩

theorem fieldsOf_and (w m : Word64) : fieldsOf (w &&& m) = (fieldsOf w).and (fieldsOf m) := by
  simp [fieldsOf, Fields.and, BitVec.extractLsb'_and]

theorem fieldsOf_injective : Function.Injective fieldsOf :=
  Function.LeftInverse.injective packFields_fieldsOf

/-- The fields that a format fixes: all but its operand field. -/
def Format.maskFields : Format → Fields
  | .n => ⟨BitVec.allOnes 8, BitVec.allOnes 8, BitVec.allOnes 16, BitVec.allOnes 32⟩
  | .b => ⟨BitVec.allOnes 8, 0#8, BitVec.allOnes 16, BitVec.allOnes 32⟩
  | .i => ⟨BitVec.allOnes 8, BitVec.allOnes 8, BitVec.allOnes 16, 0#32⟩

/-- A row's mask is that of its opcode's format, and its pattern is the opcode alone. -/
theorem opcodeMap_row_fields : ∀ row ∈ opcodeMap,
    (formatOf row.opcode).map Format.maskFields = some (fieldsOf row.mask) ∧
      fieldsOf row.pattern = ⟨row.opcode, 0#8, 0#16, 0#32⟩ := by
  decide

/-- The fields that a format fixes are the opcode and zeros exactly in the well-formed fields of that opcode. -/
theorem and_maskFields_eq_iff {op : BitVec 8} {fmt : Format} (hop : formatOf op = some fmt) (f : Fields) :
    f.and fmt.maskFields = ⟨op, 0#8, 0#16, 0#32⟩ ↔ f.wf = true ∧ f.op = op := by
  by_cases h : f.op = op
  · subst h
    cases fmt with
    | n => simp [Fields.and, Format.maskFields, wf_iff_of_format_n hop, -BitVec.reduceAllOnes]
    | b => simp [Fields.and, Format.maskFields, wf_iff_of_format_b hop, -BitVec.reduceAllOnes]
    | i => simp [Fields.and, Format.maskFields, wf_iff_of_format_i hop, -BitVec.reduceAllOnes]
  · cases fmt <;> simp [Fields.and, Format.maskFields, h, -BitVec.reduceAllOnes]

/-- R54: a row selects the words that decode to a command of its opcode. -/
theorem rowSelected_iff {row : OpcodeRow} (hrow : row ∈ opcodeMap) (w : Word64) :
    rowSelected row w = true ↔ ∃ i, decode w = some i ∧ opcodeOf i = row.opcode := by
  obtain ⟨hmask, hpattern⟩ := opcodeMap_row_fields row hrow
  obtain ⟨fmt, hop, hmask⟩ := Option.map_eq_some_iff.mp hmask
  rw [rowSelected, beq_iff_eq, ← fieldsOf_injective.eq_iff, fieldsOf_and, ← hmask, hpattern,
    and_maskFields_eq_iff hop, exists_decode_opcodeOf_iff]

theorem exists_row_of_instr (i : Instr) : ∃ row ∈ opcodeMap, opcodeOf i = row.opcode := by
  cases i <;> simp [opcodeMap, opcodeOf]

theorem row_eq_of_opcode_eq :
    ∀ row ∈ opcodeMap, ∀ row' ∈ opcodeMap, row.opcode = row'.opcode → row = row' := by
  decide

theorem decode_eq_none_iff_no_row (w : Word64) :
    decode w = none ↔ ∀ row ∈ opcodeMap, rowSelected row w = false := by
  constructor
  · intro hnone row hrow
    refine Bool.eq_false_iff.mpr fun hsel => ?_
    obtain ⟨i, hi, _⟩ := (rowSelected_iff hrow w).mp hsel
    exact nomatch hnone.symm.trans hi
  · intro hno
    refine Option.eq_none_iff_forall_ne_some.mpr fun i hi => ?_
    obtain ⟨row, hrow, hop⟩ := exists_row_of_instr i
    exact Bool.eq_false_iff.mp (hno row hrow) ((rowSelected_iff hrow w).mpr ⟨i, hi, hop⟩)

/-- Settles O3: a row selects by the opcode of the command that a word decodes to, every command has a row, and no
two rows share an opcode. -/
theorem opcodeMapSelectsTheCommand : Obligations.OpcodeMapSelectsTheCommand := by
  refine ⟨fun row hrow => rowSelected_iff hrow, decode_eq_none_iff_no_row, ?_⟩
  intro row hrow row' hrow' w hsel hsel'
  obtain ⟨i, hi, hop⟩ := (rowSelected_iff hrow w).mp hsel
  obtain ⟨i', hi', hop'⟩ := (rowSelected_iff hrow' w).mp hsel'
  obtain rfl : i = i' := Option.some.inj (hi.symm.trans hi')
  exact row_eq_of_opcode_eq row hrow row' hrow' (hop.symm.trans hop')

end Sys2Proof
end

section
/-! The assembler's words are the encodings of its lines' commands (R60 to R62). -/

namespace Sys2Proof.Machine

theorem operandWord_eq_packFields (v : Word32) (op : BitVec 8) :
    operandWord v (op.setWidth 64) = packFields ⟨op, 0#8, 0#16, v⟩ := by
  apply BitVec.eq_of_getLsbD_eq
  intro k hk
  simp only [operandWord, packFields, BitVec.getLsbD_or, BitVec.getLsbD_shiftLeft, BitVec.getLsbD_setWidth,
    BitVec.getLsbD_append]
  grind

theorem operandWord_load (v : Word32) : operandWord v 0x02#64 = encode (.load v) :=
  operandWord_eq_packFields v 0x02#8

theorem operandWord_setptr (p : Word32) : operandWord p 0x04#64 = encode (.setptr p) :=
  operandWord_eq_packFields p 0x04#8

theorem operandWord_range (n : Word32) : operandWord n 0x05#64 = encode (.range n) :=
  operandWord_eq_packFields n 0x05#8

theorem shiftLeft_or_opcode_eq_packFields (b op : BitVec 8) :
    (b.setWidth 64 <<< 8) ||| op.setWidth 64 = packFields ⟨op, b, 0#16, 0#32⟩ := by
  apply BitVec.eq_of_getLsbD_eq
  intro k hk
  simp only [packFields, BitVec.getLsbD_or, BitVec.getLsbD_shiftLeft, BitVec.getLsbD_setWidth,
    BitVec.getLsbD_append]
  grind

theorem byteWord_eq_encode (b : Byte) : byteWord b = encode (.byte b) :=
  shiftLeft_or_opcode_eq_packFields b 0x03#8

/-- An operand line gives its word for an operand that fits, and no word for one that does not. -/
theorem map_fitted {bits : Nat} (v : Nat) (word : BitVec bits → List Word64) :
    (fitted bits v).map word = if v < 2 ^ bits then some (word (BitVec.ofNat bits v)) else none := by
  unfold fitted
  split_ifs <;> rfl

@[simp] theorem fitted_toNat {bits : Nat} (x : BitVec bits) : fitted bits x.toNat = some x := by
  simp [fitted, x.isLt]

theorem byteWords_map_toNat (bytes : List Byte) :
    byteWords (bytes.map BitVec.toNat) = some (bytes.map fun x => encode (.byte x)) := by
  induction bytes with
  | nil => rfl
  | cons b bytes ih => simp [byteWords, ih, byteWord_eq_encode]

/-- Settles O6: a line without operand is a constant word; one with an operand lays it out over the opcode as the
encoder does, when it fits. -/
theorem assemblerWords : Obligations.AssemblerWords := by
  refine ⟨rfl, rfl, rfl, rfl, fun v => ⟨?_, ?_, ?_, ?_⟩⟩
  · simp only [assemble, map_fitted, operandWord_load]
  · simp only [assemble, map_fitted, operandWord_setptr]
  · simp only [assemble, map_fitted, operandWord_range]
  · simp only [assemble, map_fitted, byteWord_eq_encode]

end Sys2Proof.Machine
end

section
/-! The pseudo-commands (R61, R62). -/

namespace Sys2Proof.Machine

/-- An update is the byte step of the first byte and the update of the others (R67, R68). -/
theorem crcUpdate_cons (c : Word32) (b : Byte) (bytes : List Byte) :
    crcUpdate c (b :: bytes) = crcUpdate (crcStep c b) bytes := by
  simp [crcUpdate, crcStep, crcRaw_cons]

theorem crcUpdate_nil (c : Word32) : crcUpdate c [] = c := by
  simp [crcUpdate, crcRaw_nil]

theorem exec_byte (b : Byte) (s : State) :
    exec (.byte b) s = .next { s with crc := crcStep s.crc b, response := none } := rfl

theorem exec_setptr (p : Word32) (s : State) :
    exec (.setptr p) s = .next { s with ptr := p, response := none } := rfl

/-- BYTE commands in order update CRC with their bytes. There must be one: it is what empties the response port. -/
theorem execAll_bytesCommands_cons (b : Byte) (bytes : List Byte) (s : State) :
    execAll (bytesCommands (b :: bytes)) s =
      .next { s with crc := crcUpdate s.crc (b :: bytes), response := none } := by
  induction bytes generalizing b s with
  | nil => simp [bytesCommands, execAll_cons, execAll_nil, exec_byte, andThen_next, crcUpdate_cons, crcUpdate_nil]
  | cons b' bytes ih =>
    calc execAll (bytesCommands (b :: b' :: bytes)) s
        = execAll (bytesCommands (b' :: bytes)) { s with crc := crcStep s.crc b, response := none } := rfl
      _ = .next { s with crc := crcUpdate s.crc (b :: b' :: bytes), response := none } := by
        rw [ih, crcUpdate_cons s.crc b]

/-- Settles O27: the words by induction on the operands, the effect by induction on the commands. -/
theorem bytesPseudoCommand : Obligations.BytesPseudoCommand := fun b bytes =>
  ⟨byteWords_map_toNat (b :: bytes), execAll_bytesCommands_cons b bytes⟩

theorem assemble_region (p n : Word32) :
    assemble (.region p.toNat n.toNat) = some [encode (.setptr p), encode (.range n)] := by
  simp [assemble, operandWord_setptr, operandWord_range]

/-- After its SETPTR a region is the RANGE alone. -/
theorem execAll_regionCommands (p n : Word32) (s : State) :
    execAll (regionCommands p n) s = exec (.range n) { s with ptr := p, response := none } := by
  simp only [regionCommands, execAll_cons, exec_setptr, andThen_next]
  cases exec (.range n) { s with ptr := p, response := none } <;> rfl

/-- Settles O28: the RANGE runs with PTR = P, within bounds or not. -/
theorem regionPseudoCommand : Obligations.RegionPseudoCommand := by
  refine fun p n => ⟨assemble_region p n, fun s => ?_⟩
  rw [execAll_regionCommands]
  split_ifs with hfits
  · rw [exec_range_of_inBounds hfits, rangeBytes_eq_map]
    rfl
  · exact exec_range_of_outOfBounds (Nat.lt_of_not_le hfits)

end Sys2Proof.Machine
end

section
/-! A presented command, and the response of a transition (R46, R48, R49). -/

namespace Sys2Proof.Machine

theorem step_of_present_some {s : State} {w : Word64} {rest : List HostStep} {i : Instr}
    (hhost : s.host = .present w :: rest) (hdecode : decode w = some i) :
    step s = exec i { s with host := rest } := by
  simp only [step, hhost, hdecode]
  rfl

/-- Settles O35: decoding undoes the encoding of the word that `withFetchWord` places before the host's other
moves. -/
theorem stepRunsTheDecodedCommand : Obligations.StepRunsTheDecodedCommand := by
  refine ⟨fun s w rest i => step_of_present_some rfl, fun s i => ?_⟩
  have hdecode : decode (tableWord 64 (encode i).toNat) = some i := by rw [tableWord_toNat, decode_encode]
  exact step_of_present_some rfl hdecode

/-- A read command responds with the register it reads, and every other command gives no response (R48). -/
theorem exec_response_iff {i : Instr} {s t : State} (h : exec i s = .next t) (v : Word32) :
    t.response = some v ↔
      (i = .rdcrc ∧ v = s.crc) ∨ (i = .rdptr ∧ v = s.ptr) ∨ (i = .rdstat ∧ v = statusWord s.status) := by
  cases i with
  | rdcrc | rdptr | rdstat =>
    obtain rfl := Host.Outcome.next.inj h
    simp [eq_comm]
  | init | load | byte | setptr | range => simp [exec_response_none h]

/-- Settles O34: of the kinds of transition only an executed command can give a response. -/
theorem responseExactlyForReads : Obligations.ResponseExactlyForReads := by
  intro s t v h
  rcases step_cases s t h with ⟨hhost, rfl⟩ | ⟨a, b, rest, hhost, _, rfl⟩ | ⟨rest, hhost, rfl⟩ |
    ⟨w, rest, i, hhost, hdecode, hexec⟩ | ⟨w, rest, hhost, hdecode, rfl⟩
  · simp [hhost]
  · simp [hhost]
  · simp [hhost, assertReset_eq]
  · simp [hhost, hdecode, exec_response_iff hexec]
  · simp [hhost, hdecode, raiseFault_eq]

end Sys2Proof.Machine
end

section
/-! The update as a fold of byte steps, and its laws over segments (R67 to R70, R72). -/

namespace Sys2Proof.Machine

/-- Settles O8: the loop and the conditioning are those of the model. -/
theorem updateIsTheTableLoop : Obligations.UpdateIsTheTableLoop :=
  ⟨crcRaw_nil, crcRaw_cons, fun _ _ => rfl⟩

theorem crcUpdate_singleton (c : Word32) (b : Byte) : crcUpdate c [b] = crcStep c b := by
  rw [crcUpdate_cons, crcUpdate_nil]

/-- Settles O9: the update with one byte is one byte step, which the model writes out as R68 does. -/
theorem byteStepIsOneByteUpdate : Obligations.ByteStepIsOneByteUpdate := fun c b =>
  ⟨(crcUpdate_singleton c b).symm, rfl⟩

/-- Settles O10: the two inversions of an empty update cancel, from INIT_VALUE as from every checksum. -/
theorem emptyUpdateIsIdentity : Obligations.EmptyUpdateIsIdentity :=
  ⟨crcUpdate_nil, crcUpdate_nil initValue⟩

/-- The inversions between two bytes cancel, so the update is a fold in API form. -/
theorem crcUpdate_eq_foldl_crcStep (c : Word32) (bytes : List Byte) :
    crcUpdate c bytes = bytes.foldl crcStep c := by
  induction bytes generalizing c with
  | nil => exact crcUpdate_nil c
  | cons b bytes ih => rw [crcUpdate_cons, ih, List.foldl_cons]

theorem crcUpdate_append (c : Word32) (s t : List Byte) :
    crcUpdate c (s ++ t) = crcUpdate (crcUpdate c s) t := by
  simp only [crcUpdate_eq_foldl_crcStep, List.foldl_append]

theorem foldl_crcUpdate (c : Word32) (chunks : List (List Byte)) :
    chunks.foldl crcUpdate c = crcUpdate c chunks.flatten := by
  induction chunks generalizing c with
  | nil => exact (crcUpdate_nil c).symm
  | cons chunk chunks ih => rw [List.foldl_cons, ih, List.flatten_cons, crcUpdate_append]

/-- Settles O11: a fold over appended bytes goes on from the first fold's result. -/
theorem updatesChainOverSegments : Obligations.UpdatesChainOverSegments :=
  ⟨fun c s t => (crcUpdate_append c s t).symm, foldl_crcUpdate⟩

/-- Settles O12, by evaluating the nine byte steps. -/
theorem updateHasTheCheckValue : Obligations.UpdateHasTheCheckValue := by
  unfold Obligations.UpdateHasTheCheckValue
  decide +kernel

end Sys2Proof.Machine
end

section
/-! The table ROM: its generation and its linearity over XOR (R64, R74). -/

namespace Sys2Proof.Machine

theorem crcShifts_eq_iterate (k : Nat) (c : Word32) : crcShifts k c = crcShift^[k] c := by
  induction k generalizing c with
  | zero => rfl
  | succ k ih => exact ih (crcShift c)

/-- Each of the 256 entries listed in section 4 of the spec's file is the generated one. -/
theorem romEntry_eq_crcTable : ∀ i : Byte, romEntry i = crcTable i := by
  decide +kernel

/-- Settles O7: the ROM's entry is the generated one, and generating it iterates the shift step. -/
theorem tableRomHoldsCrcTable : Obligations.TableRomHoldsCrcTable := fun i =>
  (romEntry_eq_crcTable i).trans (crcShifts_eq_iterate 8 (i.setWidth 32))

theorem crcShifts_xor (k : Nat) (x y : Word32) :
    crcShifts k (x ^^^ y) = crcShifts k x ^^^ crcShifts k y := by
  induction k generalizing x y with
  | zero => rfl
  | succ k ih => simp only [crcShifts, crcShift_xor, ih]

/-- The table is linear, since each shift step that generates it is. -/
theorem romEntry_xor (a b : Byte) : romEntry (a ^^^ b) = romEntry a ^^^ romEntry b := by
  simp only [romEntry_eq_crcTable, crcTable, BitVec.setWidth_xor, crcShifts_xor]

/-- Settles O14: the listed entries and steps by evaluation, linearity from the generating loop. -/
theorem tableFacts : Obligations.TableFacts :=
  ⟨by decide, by decide +kernel, rfl, by decide +kernel, romEntry_xor,
    by decide +kernel, by decide +kernel, by decide +kernel⟩

end Sys2Proof.Machine
end

section
/-! Four bytes of a `u32` enter the update only through its XOR with the checksum: the residue (R73). -/

namespace Sys2Proof.Machine

/-- A byte step cancels the low byte of the raw form against its operand, and shifts the bytes above down. -/
theorem crcRawStep_xor_zero (r v : Word32) :
    crcRawStep (r ^^^ v) 0#8 = crcRawStep r (v.extractLsb' 0 8) ^^^ (v >>> 8) := by
  have hindex : ((r ^^^ v ^^^ (0#8).setWidth 32) &&& 0x000000FF#32).setWidth 8 =
      ((r ^^^ (v.extractLsb' 0 8).setWidth 32) &&& 0x000000FF#32).setWidth 8 := by
    ext i hi
    simp
  rw [crcRawStep, crcRawStep, hindex, BitVec.ushiftRight_xor_distrib, BitVec.xor_assoc]

theorem le32_eq_lowBytes (v : Word32) :
    le32 v = [v.extractLsb' 0 8, (v >>> 8).extractLsb' 0 8, (v >>> 16).extractLsb' 0 8,
      (v >>> 24).extractLsb' 0 8] := rfl

/-- Each step takes one byte off the part of `v` still ahead; after four steps none is left. -/
theorem crcRaw_le32 (r v : Word32) : crcRaw r (le32 v) = crcRaw (r ^^^ v) (le32 0#32) := by
  have hgone : v >>> 32 = 0#32 := BitVec.ushiftRight_eq_zero le_rfl
  calc crcRaw r (le32 v)
      = crcRaw r (le32 v) ^^^ v >>> 32 := by rw [hgone, BitVec.xor_zero]
    _ = crcRaw (r ^^^ v) [0#8, 0#8, 0#8, 0#8] := by
      simp only [le32_eq_lowBytes, crcRaw_cons, crcRaw_nil, crcRawStep_xor_zero, ← BitVec.shiftRight_add,
        Nat.reduceAdd]

/-- The same in API form, since inverting passes through the XOR. -/
theorem crcUpdate_le32 (c v : Word32) : crcUpdate c (le32 v) = crcUpdate (c ^^^ v) (le32 0#32) := by
  have hcomm : c ^^^ conditioning ^^^ v = c ^^^ v ^^^ conditioning := by ac_rfl
  rw [crcUpdate, crcRaw_le32, hcomm, crcUpdate]

/-- A checksum's own bytes leave the residue, the checksum of four zero bytes, whatever the checksum. -/
theorem crcUpdate_le32_self (c : Word32) : crcUpdate c (le32 c) = 0x2144DF1C#32 := by
  rw [crcUpdate_le32, BitVec.xor_self]
  decide +kernel

/-- Settles O13: by chaining, both forms are the update of a checksum with its own bytes. -/
theorem appendedCrcLeavesResidue : Obligations.AppendedCrcLeavesResidue := fun s =>
  have hresidue := crcUpdate_le32_self (crcUpdate 0#32 s)
  ⟨(crcUpdate_append 0#32 s _).trans hresidue, hresidue⟩

end Sys2Proof.Machine
end

section
/-! The register commands and the read commands, alone and before another command (R76 to R81). -/

namespace Sys2Proof.Machine

theorem exec_init (s : State) : exec .init s = .next { s with crc := 0x00000000#32, response := none } := rfl

theorem exec_load (v : Word32) (s : State) : exec (.load v) s = .next { s with crc := v, response := none } := rfl

theorem exec_rdcrc (s : State) : exec .rdcrc s = .next { s with response := some s.crc } := rfl

theorem exec_rdptr (s : State) : exec .rdptr s = .next { s with response := some s.ptr } := rfl

theorem exec_rdstat (s : State) : exec .rdstat s = .next { s with response := some (statusWord s.status) } := rfl

/-- The commands after one that completes run from its next state. -/
theorem execAll_cons_of_next {i : Instr} {s t : State} (h : exec i s = .next t) (rest : List Instr) :
    execAll (i :: rest) s = execAll rest t := by
  rw [execAll_cons, h, andThen_next]

theorem execAll_singleton (i : Instr) (s : State) : execAll [i] s = exec i s := by
  obtain ⟨t, ht, _⟩ := exec_keeps_host_owned i s
  rw [execAll_cons_of_next ht, execAll_nil, ht]

/-- Settles O16: loading INIT_VALUE is what INIT does, and BYTE commands update the checksum that LOAD left. -/
theorem loadResult : Obligations.LoadResult := by
  refine fun v => ⟨?_, exec_load v, fun s => (exec_load 0#32 s).trans (exec_init s).symm, fun s b bytes => ?_⟩
  · exact (congrArg decode (operandWord_load v)).trans (decode_encode (.load v))
  · rw [execAll_cons_of_next (exec_load v s), execAll_bytesCommands_cons]

/-- A RANGE of length 0 passes with PTR up to INPUT_SIZE itself, and changes no register (R85). -/
theorem exec_range_zero {s : State} (h : s.ptr.toNat ≤ s.inputSize.toNat) :
    exec (.range 0#32) s = .next { s with response := none } := by
  have hfits : s.ptr.toNat + (0#32).toNat ≤ s.inputSize.toNat := h
  have hbytes : rangeBytes 0#32 s = [] := rfl
  rw [exec_range_of_inBounds hfits, hbytes, crcUpdate_nil, BitVec.add_zero]

/-- With PTR at or above INPUT_SIZE, only a RANGE of length 0 at INPUT_SIZE is not out of bounds. -/
theorem outOfBounds_of_ptr_ge {s : State} {n : Word32} (h : s.inputSize.toNat ≤ s.ptr.toNat)
    (hne : ¬(s.ptr = s.inputSize ∧ n = 0#32)) : s.inputSize.toNat < s.ptr.toNat + n.toNat := by
  by_contra hle
  exact hne ⟨BitVec.eq_of_toNat_eq (by omega), BitVec.eq_of_toNat_eq (by rw [BitVec.toNat_ofNat]; omega)⟩

/-- Settles O17: the RANGE runs with the new PTR, where it is out of bounds unless it is empty at INPUT_SIZE. -/
theorem setptrResult : Obligations.SetptrResult := by
  refine fun p => ⟨?_, exec_setptr p, fun s n hp => ?_⟩
  · exact (congrArg decode (operandWord_setptr p)).trans (decode_encode (.setptr p))
  · rw [execAll_cons_of_next (exec_setptr p s), execAll_singleton]
    split_ifs with hempty
    · obtain ⟨rfl, rfl⟩ := hempty
      exact exec_range_zero le_rfl
    · exact exec_range_of_outOfBounds (outOfBounds_of_ptr_ge hp hempty)

/-- Settles O15: with CRC already 0 the update of CRC is no change. -/
theorem initResult : Obligations.InitResult :=
  ⟨decode_encode .init, exec_init, fun s hcrc => by rw [exec_init, ← hcrc]⟩

/-- Settles O18: the second RDCRC reads the CRC that the first left unchanged. -/
theorem rdcrcResult : Obligations.RdcrcResult := by
  refine ⟨decode_encode .rdcrc, fun s => ⟨exec_rdcrc s, ?_⟩⟩
  rw [execAll_cons_of_next (exec_rdcrc s), execAll_singleton, exec_rdcrc, exec_rdcrc]

/-- Settles O19: a RANGE out of bounds leaves the PTR that RDPTR then reads. -/
theorem rdptrResult : Obligations.RdptrResult := by
  refine ⟨decode_encode .rdptr, exec_rdptr, fun s n hout => ?_⟩
  rw [execAll_cons_of_next (exec_range_of_outOfBounds hout), execAll_singleton]
  exact ⟨_, exec_rdptr _, rfl⟩

/-- Bits 31:2 of the STATUS word are 0 (R23). -/
theorem statusWord_high_bits (st : Status) : (statusWord st).extractLsb' 2 30 = 0#30 := by
  ext k hk
  have hone : 2 + k ≠ 1 := by omega
  simp [statusWord_getLsbD, hone]

/-- Settles O20: the four values of STATUS by evaluation, its zero bits from those that the word has. -/
theorem rdstatResult : Obligations.RdstatResult :=
  ⟨decode_encode .rdstat, exec_rdstat, statusWord_high_bits, rfl, rfl, rfl, rfl⟩

end Sys2Proof.Machine
end

section
/-! The update commands: BYTE and RANGE alone, BYTE commands in a row, and a RANGE split into RANGEs (R84 to R87). -/

namespace Sys2Proof.Machine

/-- Settles O21: the word is the encoder's, one byte step is the update with one byte, and the corner values are
evaluated. -/
theorem byteResult : Obligations.ByteResult := by
  refine ⟨fun b => ⟨?_, fun s => ⟨exec_byte b s, (crcUpdate_singleton s.crc b).symm⟩⟩, ?_⟩
  · exact (congrArg decode (byteWord_eq_encode b)).trans (decode_encode (.byte b))
  · decide +kernel

/-- The pointer that a RANGE within bounds leaves has not wrapped (R85). -/
theorem toNat_ptr_add {s : State} {n : Word32} (h : s.ptr.toNat + n.toNat ≤ s.inputSize.toNat) :
    (s.ptr + n).toNat = s.ptr.toNat + n.toNat :=
  BitVec.toNat_add_of_lt (h.trans_lt s.inputSize.isLt)

/-- A `u32` address that is not beyond INPUT_SIZE is computed without a wrap (R86). -/
theorem toNat_ptr_add_ofNat {s : State} {i : Nat} (h : s.ptr.toNat + i ≤ s.inputSize.toNat) :
    (s.ptr + BitVec.ofNat 32 i).toNat = s.ptr.toNat + i := by
  have hi : (BitVec.ofNat 32 i).toNat = i :=
    Nat.mod_eq_of_lt ((Nat.le_add_left i _).trans_lt (h.trans_lt s.inputSize.isLt))
  rw [toNat_ptr_add (hi.symm ▸ h), hi]

/-- Settles O22: the bound check decides between the two results; the bytes are a map over their indices. -/
theorem rangeResult : Obligations.RangeResult := by
  refine fun n => ⟨?_, fun s => ⟨?_, toNat_ptr_add⟩⟩
  · exact (congrArg decode (operandWord_range n)).trans (decode_encode (.range n))
  · split_ifs with hout
    · exact exec_range_of_outOfBounds hout
    · rw [exec_range_of_inBounds (Nat.le_of_not_lt hout), rangeBytes_eq_map]

theorem rangeBytes_eq_readBytes (n : Word32) (s : State) :
    rangeBytes n s = readBytes s.mem s.ptr.toNat n.toNat := rfl

@[simp] theorem rangeBytes_length (n : Word32) (s : State) : (rangeBytes n s).length = n.toNat :=
  readBytes_length s.mem s.ptr.toNat n.toNat

theorem rangeBytes_getElem? (s : State) {n : Word32} {i : Nat} (hi : i < n.toNat) :
    (rangeBytes n s)[i]? = some (memRead s (s.ptr.toNat + i)) :=
  readBytes_getElem? s.mem s.ptr.toNat n.toNat i hi

/-- Settles O23: no address of the range wraps, and neither does the pointer after it. -/
theorem rangeCompletesInBounds : Obligations.RangeCompletesInBounds := by
  intro n s hfits
  have hptr : (s.ptr + n).toNat = s.ptr.toNat + n.toNat := toNat_ptr_add hfits
  refine ⟨_, exec_range_of_inBounds hfits, ⟨rangeBytes n s, rangeBytes_length n s, rfl, fun i hi => ?_⟩,
    hptr, hptr.trans_le hfits, rfl⟩
  have haddr : (s.ptr + BitVec.ofNat 32 i).toNat = s.ptr.toNat + i := toNat_ptr_add_ofNat (by omega)
  rw [haddr]
  exact ⟨rangeBytes_getElem? s hi, rfl, by omega⟩

/-- BYTE commands change only CRC and the response, however many there are, none included. -/
theorem execAll_bytesCommands (bytes : List Byte) (s : State) :
    ∃ r, execAll (bytesCommands bytes) s = .next { s with crc := crcUpdate s.crc bytes, response := r } := by
  cases bytes with
  | nil => exact ⟨s.response, by rw [crcUpdate_nil]; rfl⟩
  | cons b bytes => exact ⟨none, execAll_bytesCommands_cons b bytes s⟩

/-- RANGEs in a row whose total length is within bounds update CRC with the bytes of that length and move PTR by
it (R87). -/
theorem execAll_map_range (lengths : List Word32) (s : State)
    (h : s.ptr.toNat + (lengths.map BitVec.toNat).sum ≤ s.inputSize.toNat) :
    ∃ r, execAll (lengths.map Instr.range) s = .next { s with
      crc := crcUpdate s.crc (readBytes s.mem s.ptr.toNat (lengths.map BitVec.toNat).sum)
      ptr := s.ptr + BitVec.ofNat 32 (lengths.map BitVec.toNat).sum
      response := r } := by
  induction lengths generalizing s with
  | nil => exact ⟨s.response, by simp [execAll_nil, readBytes, crcUpdate_nil]⟩
  | cons n rest ih =>
    simp only [List.map_cons, List.sum_cons] at h ⊢
    have hfits : s.ptr.toNat + n.toNat ≤ s.inputSize.toNat := by omega
    have hptr := toNat_ptr_add hfits
    have hrest : (s.ptr + n).toNat + (rest.map BitVec.toNat).sum ≤ s.inputSize.toNat := by omega
    obtain ⟨r, hr⟩ := ih
      { s with crc := crcUpdate s.crc (rangeBytes n s), ptr := s.ptr + n, response := none } hrest
    refine ⟨r, ?_⟩
    rw [execAll_cons_of_next (exec_range_of_inBounds hfits), hr, hptr, rangeBytes_eq_readBytes,
      ← crcUpdate_append, readBytes_add, BitVec.ofNat_add, BitVec.ofNat_toNat, BitVec.setWidth_eq,
      BitVec.add_assoc]

/-- Settles O26: either sequence ends with the update of the one RANGE, over the same bytes. -/
theorem bytesRangesAndSplitsAgree : Obligations.BytesRangesAndSplitsAgree := by
  refine ⟨fun s n bytes hfits hbytes => ?_, fun s n lengths hsum hfits => ?_⟩
  · obtain ⟨r, hr⟩ := execAll_bytesCommands bytes s
    refine ⟨_, _, hr, exec_range_of_inBounds hfits, rfl, ?_⟩
    rw [hbytes, ← rangeBytes_eq_map]
  · obtain ⟨r, hr⟩ := execAll_map_range lengths s (hsum ▸ hfits)
    rw [← hsum, BitVec.ofNat_toNat, BitVec.setWidth_eq] at hr
    exact ⟨_, _, hr, exec_range_of_inBounds hfits, rfl, rfl, rfl⟩

end Sys2Proof.Machine
end

section
/-! An update is injective in the checksum it starts from, so the residue tells a right field from a wrong one (R73,
R95). -/

namespace Sys2Proof.Machine

/-- The top byte of a table entry is 0 at index 0 only. -/
theorem eq_zero_of_romEntry_top_byte : ∀ i : Byte, (romEntry i).extractLsb' 24 8 = 0#8 → i = 0#8 := by
  decide +kernel

/-- By linearity the top byte of an entry determines its index. -/
theorem romEntry_top_byte_injective : Function.Injective fun i : Byte => (romEntry i).extractLsb' 24 8 := by
  intro i j h
  have hxor : (romEntry (i ^^^ j)).extractLsb' 24 8 = 0#8 := by
    rw [romEntry_xor, BitVec.extractLsb'_xor]
    exact BitVec.xor_eq_zero_iff.mpr h
  exact BitVec.xor_eq_zero_iff.mp (eq_zero_of_romEntry_top_byte _ hxor)

/-- The step on the raw form, with its table index taken from the low byte (R67). -/
theorem crcRawStep_eq (r : Word32) (b : Byte) : crcRawStep r b = romEntry (r.setWidth 8 ^^^ b) ^^^ (r >>> 8) := by
  have hindex : ((r ^^^ b.setWidth 32) &&& 0x000000FF#32).setWidth 8 = r.setWidth 8 ^^^ b := by
    rw [BitVec.setWidth_and, BitVec.setWidth_xor, BitVec.setWidth_setWidth_of_le b (by decide), BitVec.setWidth_eq]
    exact BitVec.and_allOnes
  rw [crcRawStep, hindex]

theorem ushiftRight_top_byte (r : Word32) : (r >>> 8).extractLsb' 24 8 = 0#8 := by
  ext k hk
  simpa using BitVec.getLsbD_of_ge r _ (by omega)

/-- The top byte of a step's result is that of its table entry. -/
theorem crcRawStep_top_byte (r : Word32) (b : Byte) :
    (crcRawStep r b).extractLsb' 24 8 = (romEntry (r.setWidth 8 ^^^ b)).extractLsb' 24 8 := by
  rw [crcRawStep_eq, BitVec.extractLsb'_xor, ushiftRight_top_byte, BitVec.xor_zero]

theorem eq_of_low_byte_of_ushiftRight {r r' : Word32} (hlow : r.setWidth 8 = r'.setWidth 8)
    (hhigh : r >>> 8 = r' >>> 8) : r = r' := by
  apply BitVec.eq_of_getLsbD_eq
  intro k hk
  by_cases hk8 : k < 8
  · simpa [hk8] using congrArg (·.getLsbD k) hlow
  · simpa [Nat.add_sub_cancel' (Nat.le_of_not_lt hk8)] using congrArg (·.getLsbD (k - 8)) hhigh

/-- A byte step loses nothing: the result's top byte gives the table index, and so the low byte; the rest is the
bytes above it. -/
theorem crcRawStep_injective (b : Byte) : Function.Injective fun r => crcRawStep r b := by
  intro r r' h
  simp only at h
  have hindex : r.setWidth 8 ^^^ b = r'.setWidth 8 ^^^ b := by
    apply romEntry_top_byte_injective
    simp only [← crcRawStep_top_byte, h]
  refine eq_of_low_byte_of_ushiftRight ((BitVec.xor_left_inj b).mp hindex) ?_
  rwa [crcRawStep_eq, crcRawStep_eq, hindex, BitVec.xor_right_inj] at h

theorem crcRaw_injective (bytes : List Byte) : Function.Injective fun r => crcRaw r bytes := by
  induction bytes with
  | nil => exact fun _ _ h => h
  | cons b bytes ih => exact ih.comp (crcRawStep_injective b)

theorem crcUpdate_injective (bytes : List Byte) : Function.Injective fun c => crcUpdate c bytes := by
  intro c c' h
  exact (BitVec.xor_left_inj _).mp (crcRaw_injective bytes ((BitVec.xor_left_inj _).mp h))

/-- A field leaves the residue exactly when it is the checksum. -/
theorem crcUpdate_le32_eq_residue_iff (c field : Word32) :
    crcUpdate c (le32 field) = 0x2144DF1C#32 ↔ field = c := by
  rw [← crcUpdate_le32_self field, (crcUpdate_injective (le32 field)).eq_iff, eq_comm]

end Sys2Proof.Machine
end

section
/-! The gzip trailer and the header CRC field, and what compares equal to them (R89, R91, R93, R95). -/

namespace Sys2Proof.Machine

@[simp] theorem le32_length (v : Word32) : (le32 v).length = 4 := rfl

@[simp] theorem gzipTrailer_length (c : Word32) (length : Nat) : (gzipTrailer c length).length = 8 := rfl

theorem gzipTrailer_getElem?_crc (c : Word32) (length : Nat) {k : Nat} (hk : k < 4) :
    (gzipTrailer c length)[k]? = some (c.extractLsb' (8 * k) 8) := by
  rw [gzipTrailer, List.getElem?_append_left (le32_length c ▸ hk), le32_getElem? c hk]

theorem gzipTrailer_getElem?_length (c : Word32) (length : Nat) {k : Nat} (hk : k < 4) :
    (gzipTrailer c length)[4 + k]? = some ((BitVec.ofNat 32 length).extractLsb' (8 * k) 8) := by
  rw [gzipTrailer, List.getElem?_append_right (by simp), le32_length, Nat.add_sub_cancel_left,
    le32_getElem? _ hk]

/-- Settles O46: the trailer's first four bytes are the CRC's, the other four those of the length, which 32 bits
hold mod 2^32. -/
theorem gzipTrailerLayout : Obligations.GzipTrailerLayout := by
  refine ⟨fun c length k hk => ⟨gzipTrailer_getElem?_crc c length hk, ?_⟩, gzipTrailer_length, rfl⟩
  have hmod : BitVec.ofNat 32 (length % 2 ^ 32) = BitVec.ofNat 32 length :=
    BitVec.eq_of_toNat_eq (by simp)
  rw [hmod, gzipTrailer_getElem?_length c length hk]

theorem le16_setWidth (c : Word32) : le16 (c.setWidth 16) = [c.extractLsb' 0 8, c.extractLsb' 8 8] := by
  rw [le16, BitVec.extractLsb'_setWidth_of_le (by decide), BitVec.extractLsb'_setWidth_of_le (by decide)]

/-- Settles O47: the CRC folded over the chunks is that of the whole header, and the field is its low two bytes. -/
theorem headerCrcField_of_chunks : Obligations.HeaderCrcField := by
  refine fun chunks => ⟨rfl, ?_⟩
  rw [foldl_crcUpdate]
  exact le16_setWidth (crcUpdate 0#32 chunks.flatten)

/-- The two comparisons of a trailer together accept the trailer written for that CRC and length, and no other. -/
theorem trailerStatus_eq (crc : Word32) (length : Nat) (trailer : List Byte) :
    trailerStatus crc length trailer = if trailer = gzipTrailer crc length then .ok else .dataError := by
  have hmatch : (crcFieldMatches crc trailer && lengthFieldMatches length trailer) = true ↔
      trailer = gzipTrailer crc length := by
    rw [Bool.and_eq_true, crcFieldMatches, lengthFieldMatches, beq_iff_eq, beq_iff_eq]
    constructor
    · rintro ⟨hcrc, hlength⟩
      rw [gzipTrailer, ← hcrc, ← hlength, List.take_append_drop]
    · rintro rfl
      exact ⟨rfl, rfl⟩
  simp only [trailerStatus, hmatch]

theorem headerStatus_eq (fhcrc : Bool) (header field : List Byte) :
    headerStatus fhcrc header field = if field = headerCrcField fhcrc header then .ok else .dataError := by
  simp only [headerStatus, beq_iff_eq]

/-- Settles O49: only the trailer written passes, and a changed byte makes another; a wrong field leaves no residue,
since the update over its bytes is injective in the checksum. -/
theorem trailerCorruptionIsDetected : Obligations.TrailerCorruptionIsDetected := by
  refine ⟨fun data k b hk hb => ?_, fun data field => ?_⟩
  · rw [trailerStatus_eq]
    refine if_neg fun heq => hb ?_
    rw [← heq, List.getElem?_set_self (by rw [gzipTrailer_length]; omega)]
  · rw [crcUpdate_append, crcUpdate_le32_eq_residue_iff, trailerCrc]

end Sys2Proof.Machine
end

section
/-! What a check does to a session, by the session's wrap and whether it is BAD (R88, R93). -/

namespace Sys2Proof.Machine

section
variable {ss : Session}

theorem sessionVerdict_of_bad (compared : ClientStatus) (hbad : ss.bad = true) :
    sessionVerdict compared ss = (.dataError, ss) := by
  simpa [hbad] using sessionVerdict_cases compared ss

theorem sessionVerdict_of_not_gzip (compared : ClientStatus) (hbad : ss.bad = false) (hwrap : ss.wrap ≠ .gzip) :
    sessionVerdict compared ss = (.noCrcCheck, ss) := by
  simpa [hbad, hwrap] using sessionVerdict_cases compared ss

/-- Without the gzip wrap no check changes a session, BAD or not. -/
theorem sessionVerdict_snd_of_not_gzip (compared : ClientStatus) (hwrap : ss.wrap ≠ .gzip) :
    (sessionVerdict compared ss).2 = ss := by
  rcases sessionVerdict_cases compared ss with ⟨_, h⟩ | ⟨_, _, h⟩ | ⟨_, hgzip, _⟩ | ⟨_, hgzip, _⟩
  · rw [h]
  · rw [h]
  · exact absurd hgzip hwrap
  · exact absurd hgzip hwrap

/-- A comparison that passes exactly when `p` holds leaves a gzip session as it is or makes it BAD. -/
theorem sessionVerdict_ite {p : Prop} [Decidable p] (hbad : ss.bad = false) (hwrap : ss.wrap = .gzip) :
    sessionVerdict (if p then .ok else .dataError) ss =
      if p then (.ok, ss) else (.dataError, { ss with bad := true }) := by
  split_ifs
  · simpa [hbad, hwrap] using sessionVerdict_cases .ok ss
  · simpa [hbad, hwrap] using sessionVerdict_cases .dataError ss

theorem sessionHeaderCheck_of_gzip (fhcrc : Bool) (header field : List Byte) (hbad : ss.bad = false)
    (hwrap : ss.wrap = .gzip) :
    sessionHeaderCheck fhcrc header field ss =
      if field = headerCrcField fhcrc header then (.ok, ss) else (.dataError, { ss with bad := true }) := by
  rw [sessionHeaderCheck, headerStatus_eq, sessionVerdict_ite hbad hwrap]

theorem sessionCheck_of_gzip (trailer : List Byte) (hbad : ss.bad = false) (hwrap : ss.wrap = .gzip) :
    sessionCheck trailer ss =
      if trailer = gzipTrailer ss.engine.crc ss.length then (.ok, ss) else (.dataError, { ss with bad := true }) := by
  rw [sessionCheck, trailerStatus_eq, sessionVerdict_ite hbad hwrap]

end

/-- Settles O48, by the session's wrap and whether it is BAD. -/
theorem headerCrcCheck : Obligations.HeaderCrcCheck := by
  refine fun fhcrc header field ss => ⟨fun hbad hwrap hfield => ?_, fun hbad hwrap hfield => ?_,
    sessionVerdict_of_not_gzip _, fun hbad => ⟨sessionVerdict_of_bad _ hbad, sessionVerdict_of_bad _ hbad⟩⟩
  · rw [sessionHeaderCheck_of_gzip fhcrc header field hbad hwrap, if_pos hfield]
  · rw [sessionHeaderCheck_of_gzip fhcrc header field hbad hwrap, if_neg hfield]

end Sys2Proof.Machine
end

section
/-! Feeding a session, in one call and in several, and the checks after it (R88, R92 to R94). -/

namespace Sys2Proof.Machine

section
variable {ss : Session}

theorem sessionFeed_of_bad (data : List Byte) (hbad : ss.bad = true) : sessionFeed data ss = .next ss :=
  if_pos hbad

theorem sessionFeed_of_not_gzip (data : List Byte) (hbad : ss.bad = false) (hwrap : ss.wrap ≠ .gzip) :
    sessionFeed data ss = .next { ss with length := ss.length + data.length } := by
  simp [sessionFeed, hbad, usesEngine_iff, hwrap]

/-- A gzip session feeds its engine by BYTE commands. -/
theorem sessionFeed_of_gzip {data : List Byte} {e : State} (hbad : ss.bad = false) (hwrap : ss.wrap = .gzip)
    (hexec : execAll (bytesCommands data) ss.engine = .next e) :
    sessionFeed data ss = .next { ss with engine := e, length := ss.length + data.length } := by
  simp [sessionFeed, hbad, usesEngine_iff, hwrap, hexec, andThen_next]

end

theorem execAll_append (xs ys : List Instr) (s : State) :
    execAll (xs ++ ys) s = andThen (execAll xs s) (execAll ys) := by
  induction xs generalizing s with
  | nil => rfl
  | cons i xs ih =>
    obtain ⟨t, ht, _⟩ := exec_keeps_host_owned i s
    rw [List.cons_append, execAll_cons_of_next ht, execAll_cons_of_next ht, ih]

/-- BYTE commands never stop, and update CRC with their bytes. -/
theorem exists_execAll_bytesCommands (bytes : List Byte) (s : State) :
    ∃ t, execAll (bytesCommands bytes) s = .next t ∧ t.crc = crcUpdate s.crc bytes := by
  obtain ⟨_, h⟩ := execAll_bytesCommands bytes s
  exact ⟨_, h, rfl⟩

theorem bytesCommands_append (xs ys : List Byte) :
    bytesCommands (xs ++ ys) = bytesCommands xs ++ bytesCommands ys := List.map_append

theorem sessionFeed_nil (ss : Session) : sessionFeed [] ss = .next ss := by
  cases hbad : ss.bad with
  | true => exact sessionFeed_of_bad [] hbad
  | false =>
    by_cases hwrap : ss.wrap = .gzip
    · exact sessionFeed_of_gzip hbad hwrap rfl
    · exact sessionFeed_of_not_gzip [] hbad hwrap

/-- In each kind of session the second call goes on from what the first left. -/
theorem sessionFeed_append (xs ys : List Byte) (ss : Session) :
    sessionFeed (xs ++ ys) ss = andThen (sessionFeed xs ss) (sessionFeed ys) := by
  cases hbad : ss.bad with
  | true => simp only [sessionFeed_of_bad _ hbad, andThen_next]
  | false =>
    by_cases hwrap : ss.wrap = .gzip
    · obtain ⟨e, hxs, _⟩ := exists_execAll_bytesCommands xs ss.engine
      obtain ⟨f, hys, _⟩ := exists_execAll_bytesCommands ys e
      have hall : execAll (bytesCommands (xs ++ ys)) ss.engine = .next f := by
        rw [bytesCommands_append, execAll_append, hxs, andThen_next, hys]
      rw [sessionFeed_of_gzip hbad hwrap hall, sessionFeed_of_gzip hbad hwrap hxs, andThen_next,
        List.length_append, ← Nat.add_assoc]
      exact (sessionFeed_of_gzip (ss := { ss with engine := e, length := ss.length + xs.length }) hbad hwrap hys).symm
    · rw [sessionFeed_of_not_gzip _ hbad hwrap, sessionFeed_of_not_gzip xs hbad hwrap, andThen_next,
        List.length_append, ← Nat.add_assoc]
      exact (sessionFeed_of_not_gzip (ss := { ss with length := ss.length + xs.length }) ys hbad hwrap).symm

theorem sessionFeedAll_eq_flatten (chunks : List (List Byte)) (ss : Session) :
    sessionFeedAll chunks ss = sessionFeed chunks.flatten ss := by
  induction chunks generalizing ss with
  | nil => exact (sessionFeed_nil ss).symm
  | cons chunk chunks ih =>
    rw [List.flatten_cons, sessionFeed_append, sessionFeedAll, funext ih]

/-- A gzip session that is not BAD takes its data: its checksum is updated and its length increased. -/
theorem exists_sessionFeed_of_gzip (data : List Byte) {ss : Session} (hwrap : ss.wrap = .gzip)
    (hbad : ss.bad = false) :
    ∃ t, sessionFeed data ss = .next t ∧ t.engine.crc = crcUpdate ss.engine.crc data ∧
      t.length = ss.length + data.length ∧ t.bad = false ∧ t.wrap = .gzip := by
  obtain ⟨e, hexec, hcrc⟩ := exists_execAll_bytesCommands data ss.engine
  exact ⟨_, sessionFeed_of_gzip hbad hwrap hexec, hcrc, rfl, hbad, hwrap⟩

/-- Settles O50: feeding appended data is feeding the parts, and so, by induction, feeding any list of chunks. -/
theorem sessionFeedingIgnoresChunking : Obligations.SessionFeedingIgnoresChunking :=
  ⟨sessionFeedAll_eq_flatten, fun data _ => exists_sessionFeed_of_gzip data⟩

/-- A new gzip session after data carries what the trailer for that data holds. -/
theorem exists_sessionFeed_sessionStart (data : List Byte) (size : Word32) :
    ∃ t, sessionFeed data (sessionStart .gzip size) = .next t ∧ t.engine.crc = crcUpdate 0#32 data ∧
      t.length = data.length ∧ t.bad = false ∧ t.wrap = .gzip := by
  obtain ⟨t, hfeed, hcrc, hlength, hbad, hwrap⟩ :=
    exists_sessionFeed_of_gzip data (ss := sessionStart .gzip size) rfl rfl
  exact ⟨t, hfeed, hcrc, hlength.trans (Nat.zero_add _), hbad, hwrap⟩

theorem sessionTrailer_of_gzip {ss : Session} (hwrap : ss.wrap = .gzip) :
    sessionTrailer ss = some (gzipTrailer ss.engine.crc ss.length) := by
  simp only [sessionTrailer, hwrap]

/-- Settles O51: both sessions have the same checksum and length, so the check accepts what the other writes; a
session that it makes BAD takes nothing, and the reset clears BAD and CRC. -/
theorem sessionTrailerCheck : Obligations.SessionTrailerCheck := by
  intro size size' data trailer
  obtain ⟨t, htfeed, htcrc, htlength, _, htwrap⟩ := exists_sessionFeed_sessionStart data size
  obtain ⟨u, hufeed, hucrc, hulength, hubad, huwrap⟩ := exists_sessionFeed_sessionStart data size'
  have htrailer : sessionTrailer t = some (gzipTrailer u.engine.crc u.length) := by
    rw [sessionTrailer_of_gzip htwrap, htcrc, htlength, hucrc, hulength]
  have hcheck := sessionCheck_of_gzip trailer hubad huwrap
  refine ⟨t, u, htfeed, hufeed, by rw [htrailer, hucrc, hulength], fun hsame => ?_, fun hother => ?_⟩
  · rw [hcheck, if_pos (Option.some.inj (hsame.symm.trans htrailer))]
  · have hne : trailer ≠ gzipTrailer u.engine.crc u.length :=
      fun heq => hother (htrailer.trans (congrArg some heq.symm))
    rw [hcheck, if_neg hne]
    exact ⟨rfl, rfl, fun more => sessionFeed_of_bad more rfl, rfl, rfl⟩

/-- Settles O54: without the gzip wrap data only lengthens the session, if it is not BAD, and no check changes it. -/
theorem sessionWithoutGzipLeavesEngine : Obligations.SessionWithoutGzipLeavesEngine := by
  intro ss hwrap
  refine ⟨fun data => ?_, fun fhcrc header field trailer => ?_, fun hraw => ?_, fun hzlib => ?_⟩
  · cases hbad : ss.bad with
    | true => exact ⟨ss, sessionFeed_of_bad data hbad, rfl, hbad, rfl, nofun⟩
    | false => exact ⟨_, sessionFeed_of_not_gzip data hbad hwrap, rfl, hbad, rfl, fun _ => rfl⟩
  · exact ⟨sessionVerdict_snd_of_not_gzip _ hwrap, sessionVerdict_snd_of_not_gzip _ hwrap,
      fun hbad => congrArg Prod.fst (sessionVerdict_of_not_gzip _ hbad hwrap)⟩
  · simp only [sessionTrailer, hraw]
  · simp only [sessionTrailer, hzlib]

end Sys2Proof.Machine
end

section
/-! The words that are no command, by the format of their opcode (R55 to R57). -/

namespace Sys2Proof

/-- R57: the opcodes that have no format. -/
theorem formatOf_eq_none_iff : ∀ op : BitVec 8, formatOf op = none ↔ op = 0x00#8 ∨ 0x09 ≤ op.toNat := by
  decide

/-- R50: INIT, RDCRC, RDPTR and RDSTAT have no operand. -/
theorem formatOf_eq_n_iff : ∀ op : BitVec 8,
    formatOf op = some .n ↔ op ∈ [0x01#8, 0x06#8, 0x07#8, 0x08#8] := by
  decide

/-- R51: BYTE has a byte operand. -/
theorem formatOf_eq_b_iff : ∀ op : BitVec 8, formatOf op = some .b ↔ op = 0x03#8 := by
  decide

/-- R52: LOAD, SETPTR and RANGE have a word operand. -/
theorem formatOf_eq_i_iff : ∀ op : BitVec 8, formatOf op = some .i ↔ op ∈ [0x02#8, 0x04#8, 0x05#8] := by
  decide

/-- A word is legal exactly when its fields are well formed (R49, R97). -/
theorem decode_eq_none_iff_not_wf (w : Word64) : decode w = none ↔ ¬(fieldsOf w).wf = true := by
  rw [Option.eq_none_iff_forall_ne_some]
  constructor
  · intro hnone hwf
    obtain ⟨i, hi⟩ := exists_encodeFields_of_wf hwf
    exact hnone i ((decode_eq_some_iff_fields w i).mpr hi)
  · intro hwf i hi
    rw [(decode_eq_some_iff_fields w i).mp hi] at hwf
    exact hwf (encodeFields_wf i)

/-- Fields are ill formed for an opcode without a format, a non-zero reserved field, or a non-zero operand field that
the format does not use (R55 to R57). -/
theorem not_wf_iff (f : Fields) :
    ¬f.wf = true ↔
      formatOf f.op = none ∨ f.rsv ≠ 0#16 ∨ (formatOf f.op = some .n ∧ (f.b8 ≠ 0#8 ∨ f.imm32 ≠ 0#32)) ∨
        (formatOf f.op = some .b ∧ f.imm32 ≠ 0#32) ∨ (formatOf f.op = some .i ∧ f.b8 ≠ 0#8) := by
  match hop : formatOf f.op with
  | none => simp [Fields.wf, Fields.opcodeLegal, hop]
  | some .n => simp [wf_iff_of_format_n hop, -not_and, not_and_or, or_left_comm]
  | some .b => simp [wf_iff_of_format_b hop, -not_and, not_and_or]
  | some .i => simp [wf_iff_of_format_i hop, -not_and, not_and_or, or_comm]

end Sys2Proof
end

section
/-! Raising a fault: the STATUS bits after it, and what the commands after it do (R96). -/

namespace Sys2Proof.Machine

/-- A presented word that is no command raises ILL (R97). -/
theorem step_of_present_none {s : State} {w : Word64} {rest : List HostStep}
    (hhost : s.host = .present w :: rest) (hdecode : decode w = none) :
    step s = .next (raiseFault .ill { s with host := rest }) := by
  simp only [step, hhost, hdecode]
  rfl

/-- Setting a fault sets its bit of the STATUS word and keeps the others (R21, R22). -/
theorem statusWord_setFault_getLsbD (f : FaultCause) (st : Status) (k : Nat) :
    (statusWord (setFault f st)).getLsbD k = (k == faultBit f || (statusWord st).getLsbD k) := by
  rw [statusWord_getLsbD, statusWord_getLsbD]
  cases f with
  | ill =>
    simp only [setFault, faultBit, Bool.and_true]
    cases k == 0 <;> simp
  | range =>
    simp only [setFault, faultBit, Bool.and_true]
    cases k == 1 <;> simp

/-- No command but RDSTAT depends on STATUS, and none on the response before it. -/
theorem exec_congr_status_response (i : Instr) (s : State) (st : Status) (r : Option Word32) :
    ∃ t u, exec i s = .next t ∧ exec i { s with status := st, response := r } = .next u ∧
      u.crc = t.crc ∧ u.ptr = t.ptr ∧ u.mem = t.mem ∧ (i ≠ .rdstat → u.response = t.response) := by
  cases i with
  | range n =>
    by_cases hfits : s.ptr.toNat + n.toNat ≤ s.inputSize.toNat
    · exact ⟨_, _, exec_range_of_inBounds hfits,
        exec_range_of_inBounds (s := { s with status := st, response := r }) hfits, rfl, rfl, rfl, fun _ => rfl⟩
    · have hout := Nat.lt_of_not_le hfits
      exact ⟨_, _, exec_range_of_outOfBounds hout,
        exec_range_of_outOfBounds (s := { s with status := st, response := r }) hout, rfl, rfl, rfl, fun _ => rfl⟩
  | rdstat => exact ⟨_, _, exec_rdstat _, exec_rdstat _, rfl, rfl, rfl, fun h => absurd rfl h⟩
  | init | load | byte | setptr | rdcrc | rdptr => exact ⟨_, _, rfl, rfl, rfl, rfl, rfl, fun _ => rfl⟩

end Sys2Proof.Machine
end

section
/-! The faults of a command, and the step without a host move (R96 to R98, R101, R110). -/

namespace Sys2Proof.Machine

/-- Settles O2: the words that are no command have ill-formed fields, presenting one raises ILL, and no command
changes ILL. -/
theorem illegalWordsRaiseIll : Obligations.IllegalWordsRaiseIll := by
  refine ⟨fun w => ?_, fun s w rest => ?_, fun i s => ?_, rfl, rfl, by decide, by decide⟩
  · rw [decode_eq_none_iff_not_wf, not_wf_iff, formatOf_eq_none_iff, formatOf_eq_n_iff, formatOf_eq_b_iff,
      formatOf_eq_i_iff]
    rfl
  · exact step_of_present_none (s := { s with host := .present w :: rest }) rfl
  · obtain ⟨t, ht, _⟩ := exec_keeps_host_owned i s
    exact ⟨t, ht, exec_status_ill ht⟩

/-- Settles O24, from what a RANGE out of bounds does and what every command does to the RANGE bit. -/
theorem rangeFaultOnlyOutOfBounds : Obligations.RangeFaultOnlyOutOfBounds := by
  refine ⟨fun n s => exec_range_of_outOfBounds, fun i s => ?_, rfl, rfl⟩
  obtain ⟨t, ht, _⟩ := exec_keeps_host_owned i s
  exact ⟨t, ht, exec_status_range_iff ht⟩

/-- Settles O31: a fault changes STATUS, in one bit, and the response, on which no later command but RDSTAT
depends. -/
theorem raiseFaultSetsOneBit : Obligations.RaiseFaultSetsOneBit := by
  refine ⟨fun f s => ⟨?_, fun k hk => ?_, rfl⟩, fun f i s => exec_congr_status_response i s (setFault f s.status) none⟩
  · simp [raiseFault_eq, statusWord_setFault_getLsbD]
  · simp [raiseFault_eq, statusWord_setFault_getLsbD, hk]

/-- Settles O33: a command keeps ILL, and an illegal word, which is not executed, keeps RANGE. -/
theorem atMostOneFaultACommand : Obligations.AtMostOneFaultACommand := by
  refine ⟨fun s t h => ?_, fun s w rest hdecode => ⟨_, step_of_present_none rfl hdecode, rfl, rfl⟩⟩
  rcases step_cases s t h with ⟨_, rfl⟩ | ⟨a, b, rest, _, _, rfl⟩ | ⟨rest, hhost, rfl⟩ |
    ⟨w, rest, i, _, _, hexec⟩ | ⟨w, rest, _, _, rfl⟩
  · exact .inl rfl
  · exact .inl rfl
  · exact .inr (.inr (by rw [hhost]; rfl))
  · exact .inl (exec_status_ill (s := { s with host := rest }) hexec)
  · exact .inr (.inl rfl)

/-- Settles O40: an idle step completes, as a command does, with no response. -/
theorem idleStepHoldsState : Obligations.IdleStepHoldsState := fun s =>
  (step_of_idle rfl).trans (complete_eq { s with host := [] })

end Sys2Proof.Machine
end

section
/-! Reset: the state after it, its well-formedness, and that nothing else clears STATUS (R111, R112). -/

namespace Sys2Proof.Machine

/-- Settles O36: reset leaves the fields it does not name, and every set bit outlasts a transition that is no reset
(O32). -/
theorem resetStep : Obligations.ResetStep := by
  refine ⟨fun s rest => ?_, fun s t h hhost => ?_⟩
  · rw [step_of_reset rfl, assertReset_eq]
    rfl
  · obtain ⟨_, hsticky⟩ := faultBitsAreSticky s t h
    obtain ⟨hill, hrange⟩ := hsticky hhost
    exact ⟨fun hs => hill.mpr (.inl hs), fun hs => hrange.mpr (.inl hs)⟩

/-- With both bits clear the STATUS word is 0 (R20, R23). -/
theorem statusWord_clear : statusWord ⟨false, false⟩ = 0x00000000#32 := by decide

/-- Settles O37: the reset state's fields are those that R112 lists, its STATUS word the one with both bits
clear. -/
theorem resetStateValues : Obligations.ResetStateValues :=
  ⟨fun _ _ => ⟨rfl, rfl, rfl, rfl, statusWord_clear, rfl, rfl, rfl⟩, rfl, rfl, statusWord_clear, rfl⟩

/-- Reset touches neither input memory nor INPUT_SIZE, the two things that well-formedness speaks of. -/
theorem assertReset_wf (s : State) : (assertReset s).wf = s.wf := rfl

/-- Settles O43: no byte of input memory is written in `State.reset`, and reset keeps input memory. -/
theorem resetIsWellFormed : Obligations.ResetIsWellFormed :=
  ⟨(state_wf_iff State.reset).mpr ⟨rfl, rfl⟩, fun s hwf => (assertReset_wf s).trans hwf⟩

end Sys2Proof.Machine
end
